-- ==== Sys2Proof/Word.lean ====
section
/-! DEFINITION. The machine word and the character type (00_scope.md R5, R8; 10_state.md R37). -/

namespace Sys2Proof

/-- A register or memory word: 16 bits (R5 `WORD`, R8). Addresses are words too (R5 `ADDR_W`). -/
abbrev Word := BitVec 16

/-- A character of the keyboard or of the output channel: 8 bits (R37, R219). -/
abbrev Byte := BitVec 8

end Sys2Proof
end

