-- ==== Sys2Proof/Config.lean ====
section
/-! DEFINITION. The parameters of the hardware (00_scope.md R6) and its one free value. The values the spec
chooses for the parameters stand in Machine/Parameters.lean. -/

namespace Sys2Proof

/-- `DECODE_FIXED_BITS` (R6, R83): whether a word with a wrong fixed bit is illegal. -/
inductive FixedBits where
  /-- A wrong fixed bit makes the word illegal. -/
  | strict
  /-- Fixed bits other than those that select the instruction are ignored. -/
  | lenient
  deriving DecidableEq, Repr

/-- `DISPLAY_READY` (R6, R34, R224): the policy for DSR bit 15. -/
inductive DisplayPolicy where
  /-- READY is 1 at all times. -/
  | always
  /-- Each DSR read draws READY. -/
  | draw
  deriving DecidableEq, Repr

/-- The parameters a model takes as arguments (R6), fixed for a machine. `OS_IMAGE` and the reset draws are
arguments of the bring-up and of reset instead (Machine/Boot.lean, Machine/HostActions.lean).
DESIGN CHOICE (log entry 3): a machine's parameters stand in `State.params`, so that a claim about every state is a
claim about every value of them. -/
structure Params where
  /-- `RESET_PC`. -/
  resetPC : Word
  /-- `USER_WINDOW`, as the inclusive address ranges whose union it is (log entry 16). -/
  userWindow : List (Word × Word)
  /-- `LEA_SETS_CC`. -/
  leaSetsCC : Bool
  /-- `DECODE_FIXED_BITS`. -/
  decodeFixedBits : FixedBits
  /-- `DISPLAY_READY`. -/
  displayReady : DisplayPolicy
  /-- `KBD_INT_VECTOR`. -/
  kbdIntVector : BitVec 8
  /-- `KBD_INT_PRIORITY`. -/
  kbdIntPriority : BitVec 3
  deriving DecidableEq, Repr

/-- The free value of R224: READY as the k-th DSR read draws it when `DISPLAY_READY` is a draw. Nothing constrains
it; fairness is not assumed (log entry 9). -/
opaque Config.displayReadyDraw : Nat → Bool

end Sys2Proof
end

