-- ==== Sys2Proof/Machine/Parameters.lean ====
section
/-! DEFINITION. The values the spec chooses for the parameters (00_scope.md R6), the fixed addresses and vectors
(20_memory.md R48, 60_exceptions.md R196, R245) and the reset values (10_state.md R41). -/

namespace Sys2Proof

/-- The spec's values of the parameters (R6). -/
def Params.spec : Params where
  resetPC := 0x0200
  userWindow := [(0x3000, 0xFDFF)]
  leaSetsCC := false
  decodeFixedBits := .strict
  displayReady := .always
  kbdIntVector := 0x80
  kbdIntPriority := 4

/-- Whether an address lies in `USER_WINDOW` (R57). -/
def Params.inUserWindow (p : Params) (a : Word) : Bool :=
  p.userWindow.any fun r => decide (r.1 ≤ a) && decide (a ≤ r.2)

namespace Machine

/-- KBSR, the keyboard status register's address (R48). -/
def addrKBSR : Word := 0xFE00
/-- KBDR, the keyboard data register's address (R48). -/
def addrKBDR : Word := 0xFE02
/-- DSR, the display status register's address (R48). -/
def addrDSR : Word := 0xFE04
/-- DDR, the display data register's address (R48). -/
def addrDDR : Word := 0xFE06
/-- MCR, the machine-control register's address (R48). -/
def addrMCR : Word := 0xFFFE

/-- The five device addresses, and no others (R52). -/
def deviceAddresses : List Word := [addrKBSR, addrKBDR, addrDSR, addrDDR, addrMCR]

/-- Whether an access to the address goes to a device register (R52). -/
def isDevice (a : Word) : Bool := deviceAddresses.contains a

/-- The trap vector table's base (R188, R245). -/
def trapTableBase : Word := 0x0000
/-- The interrupt vector table's base (R202, R245). -/
def interruptTableBase : Word := 0x0100

/-- The trap numbers of the OS services (R88, R188, R245). -/
def trapGETC : BitVec 8 := 0x20
/-- OUT (R88). -/
def trapOUT : BitVec 8 := 0x21
/-- PUTS (R88). -/
def trapPUTS : BitVec 8 := 0x22
/-- IN (R88). -/
def trapIN : BitVec 8 := 0x23
/-- PUTSP (R88). -/
def trapPUTSP : BitVec 8 := 0x24
/-- HALT (R88). -/
def trapHALT : BitVec 8 := 0x25

/-- The synchronous exceptions (R196). -/
inductive Exception where
  /-- RTI executed in user mode. -/
  | privilegeViolation
  /-- A word that decodes to no instruction. -/
  | illegalOpcode
  /-- A user-mode access outside `USER_WINDOW`. -/
  | accessViolation
  deriving DecidableEq, Repr

/-- An exception's vector (R196). -/
def Exception.vector : Exception → BitVec 8
  | .privilegeViolation => 0x00
  | .illegalOpcode => 0x01
  | .accessViolation => 0x02

/-- PSR at reset: supervisor, PL 0, Z (R41). -/
def resetPSR : Word := 0x0002
/-- MCR at reset: the run bit set (R41). -/
def resetMCR : Word := 0x8000

end Machine
end Sys2Proof
end

