-- ==== Sys2Proof/Syntax.lean ====
section
/-! DEFINITION. The instructions: one constructor per row of spec/opcode_table.json. -/

namespace Sys2Proof

/-- A general register's number, 0 to 7 (10_state.md R20, 30_encoding.md R71). -/
abbrev Reg := Fin 8

/-- The LC-3's instructions with their operand fields (30_encoding.md R71 to R78), then the assembler aliases of
R87, R88 and R90. A field holds the bits of the word; extension is done where the field is used (R79). -/
inductive Instr where
  /-- `ADD DR, SR1, SR2` (R150). -/
  | addReg (dr sr1 sr2 : Reg)
  /-- `ADD DR, SR1, imm5` (R151). -/
  | addImm (dr sr1 : Reg) (imm5 : BitVec 5)
  /-- `AND DR, SR1, SR2` (R152). -/
  | andReg (dr sr1 sr2 : Reg)
  /-- `AND DR, SR1, imm5` (R153). -/
  | andImm (dr sr1 : Reg) (imm5 : BitVec 5)
  /-- `NOT DR, SR` (R154). -/
  | not (dr sr : Reg)
  /-- `BR[n][z][p] off`, any of the eight masks (R177, R178). -/
  | br (n z p : Bool) (pcOffset9 : BitVec 9)
  /-- `JMP BaseR` (R179). -/
  | jmp (baseR : Reg)
  /-- `JSR off` (R181). -/
  | jsr (pcOffset11 : BitVec 11)
  /-- `JSRR BaseR` (R182). -/
  | jsrr (baseR : Reg)
  /-- `LD DR, off` (R160). -/
  | ld (dr : Reg) (pcOffset9 : BitVec 9)
  /-- `LDI DR, off` (R161). -/
  | ldi (dr : Reg) (pcOffset9 : BitVec 9)
  /-- `LDR DR, BaseR, offset6` (R162). -/
  | ldr (dr baseR : Reg) (offset6 : BitVec 6)
  /-- `LEA DR, off` (R163). -/
  | lea (dr : Reg) (pcOffset9 : BitVec 9)
  /-- `ST SR, off` (R165). -/
  | st (sr : Reg) (pcOffset9 : BitVec 9)
  /-- `STI SR, off` (R166). -/
  | sti (sr : Reg) (pcOffset9 : BitVec 9)
  /-- `STR SR, BaseR, offset6` (R167). -/
  | str (sr baseR : Reg) (offset6 : BitVec 6)
  /-- `RTI` (R189, R190). -/
  | rti
  /-- `TRAP trapvect8` (R187). -/
  | trap (trapvect8 : BitVec 8)
  /-- The illegal instruction (R82, R83, R192), the table's row RESERVED, with the word that was fetched
  (log entry 11). -/
  | illegal (word : Word)
  /-- `RET`, another spelling of `JMP R7` (R90, R180). -/
  | ret
  /-- `GETC`, another spelling of `TRAP x20` (R88). -/
  | getc
  /-- `OUT`, another spelling of `TRAP x21` (R88). -/
  | out
  /-- `PUTS`, another spelling of `TRAP x22` (R88). -/
  | puts
  /-- `IN`, another spelling of `TRAP x23` (R88). -/
  | inp
  /-- `PUTSP`, another spelling of `TRAP x24` (R88). -/
  | putsp
  /-- `HALT`, another spelling of `TRAP x25` (R88). -/
  | halt
  /-- `BRn off` (R87). -/
  | brn (pcOffset9 : BitVec 9)
  /-- `BRz off` (R87). -/
  | brz (pcOffset9 : BitVec 9)
  /-- `BRp off` (R87). -/
  | brp (pcOffset9 : BitVec 9)
  /-- `BRnz off` (R87). -/
  | brnz (pcOffset9 : BitVec 9)
  /-- `BRnp off` (R87). -/
  | brnp (pcOffset9 : BitVec 9)
  /-- `BRzp off` (R87). -/
  | brzp (pcOffset9 : BitVec 9)
  /-- `BRnzp off` (R87). -/
  | brnzp (pcOffset9 : BitVec 9)
  deriving DecidableEq, Repr

end Sys2Proof
end

