-- ==== Sys2Proof/WellFormed.lean ====
section
/-! DEFINITION. Well-formed instructions. The operand fields' types leave one check: the word an illegal instruction
carries is one the opcode table gives no instruction. -/

namespace Sys2Proof

/-- A row of kind `instruction` of spec/opcode_table.json: the bits it fixes, and the mask of those that count when
fixed bits are ignored (its `mask_lenient`, or its `mask` where it gives none). -/
structure TableRow where
  pattern : Word
  strictMask : Word
  lenientMask : Word
  deriving DecidableEq, Repr

/-- The 18 rows of kind `instruction`, in the table's order. -/
def instructionRows : List TableRow :=
  [ ⟨0x1000, 0xF038, 0xF020⟩,   -- ADD, register
    ⟨0x1020, 0xF020, 0xF020⟩,   -- ADD, immediate
    ⟨0x5000, 0xF038, 0xF020⟩,   -- AND, register
    ⟨0x5020, 0xF020, 0xF020⟩,   -- AND, immediate
    ⟨0x903F, 0xF03F, 0xF000⟩,   -- NOT
    ⟨0x0000, 0xF000, 0xF000⟩,   -- BR
    ⟨0xC000, 0xFE3F, 0xF000⟩,   -- JMP
    ⟨0x4800, 0xF800, 0xF800⟩,   -- JSR
    ⟨0x4000, 0xFE3F, 0xF800⟩,   -- JSRR
    ⟨0x2000, 0xF000, 0xF000⟩,   -- LD
    ⟨0xA000, 0xF000, 0xF000⟩,   -- LDI
    ⟨0x6000, 0xF000, 0xF000⟩,   -- LDR
    ⟨0xE000, 0xF000, 0xF000⟩,   -- LEA
    ⟨0x3000, 0xF000, 0xF000⟩,   -- ST
    ⟨0xB000, 0xF000, 0xF000⟩,   -- STI
    ⟨0x7000, 0xF000, 0xF000⟩,   -- STR
    ⟨0x8000, 0xFFFF, 0xF000⟩,   -- RTI
    ⟨0xF000, 0xFF00, 0xF000⟩ ]  -- TRAP

/-- The mask of a row under a value of `DECODE_FIXED_BITS`. -/
def TableRow.mask (r : TableRow) : FixedBits → Word
  | .strict => r.strictMask
  | .lenient => r.lenientMask

/-- Whether a word has the fixed bits of a row that count under `m`. -/
def TableRow.matches (r : TableRow) (m : FixedBits) (w : Word) : Bool :=
  w &&& r.mask m == r.pattern &&& r.mask m

/-- Whether the opcode table gives the word an instruction under `m` (R82, R83). -/
def legalWord (m : FixedBits) (w : Word) : Bool :=
  instructionRows.any fun r => r.matches m w

/-- Well-formedness under a value of `DECODE_FIXED_BITS`: an illegal instruction carries an illegal word. Every other
term is well-formed, since its operands' types hold exactly the values its fields can (R71). -/
def Instr.wellFormed (m : FixedBits) : Instr → Bool
  | .illegal w => !legalWord m w
  | .addReg _ _ _ | .addImm _ _ _ | .andReg _ _ _ | .andImm _ _ _ | .not _ _ => true
  | .br _ _ _ _ | .jmp _ | .jsr _ | .jsrr _ => true
  | .ld _ _ | .ldi _ _ | .ldr _ _ _ | .lea _ _ | .st _ _ | .sti _ _ | .str _ _ _ => true
  | .rti | .trap _ => true
  | .ret | .getc | .out | .puts | .inp | .putsp | .halt => true
  | .brn _ | .brz _ | .brp _ | .brnz _ | .brnp _ | .brzp _ | .brnzp _ => true

end Sys2Proof
end

