-- ==== Sys2Proof/Decode.lean ====
section
/-! DEFINITION. Decoding a word (30_encoding.md R81) and encoding an instruction (30_encoding.md R72 to R78). -/

namespace Sys2Proof

/-- The `len` bits of a word from bit `lo` up (R7). -/
def field (w : Word) (lo len : Nat) : BitVec len := w.extractLsb' lo len

/-- The register number in the three bits from bit `lo` up (R71). -/
def regField (w : Word) (lo : Nat) : Reg := (field w lo 3).toFin

/-- One bit of a word, as a flag. -/
def bitField (w : Word) (i : Nat) : Bool := w.getLsbD i

/-- `FixedOK` (R81): the `len` bits from bit `lo` up have the value the format fixes, or fixed bits are ignored. -/
def fixedOk (m : FixedBits) (w : Word) (lo len : Nat) (v : BitVec len) : Bool :=
  m == .lenient || field w lo len == v

/-- The decoder (R81), total on words. A word the table gives no instruction is rejected by the name `illegal`. -/
def decode (m : FixedBits) (w : Word) : Instr :=
  match field w 12 4 with
  | 0x0#4 => .br (bitField w 11) (bitField w 10) (bitField w 9) (field w 0 9)
  | 0x1#4 =>
    if bitField w 5 then .addImm (regField w 9) (regField w 6) (field w 0 5)
    else if fixedOk m w 3 2 0#2 then .addReg (regField w 9) (regField w 6) (regField w 0)
    else .illegal w
  | 0x2#4 => .ld (regField w 9) (field w 0 9)
  | 0x3#4 => .st (regField w 9) (field w 0 9)
  | 0x4#4 =>
    if bitField w 11 then .jsr (field w 0 11)
    else if fixedOk m w 9 2 0#2 && fixedOk m w 0 6 0#6 then .jsrr (regField w 6)
    else .illegal w
  | 0x5#4 =>
    if bitField w 5 then .andImm (regField w 9) (regField w 6) (field w 0 5)
    else if fixedOk m w 3 2 0#2 then .andReg (regField w 9) (regField w 6) (regField w 0)
    else .illegal w
  | 0x6#4 => .ldr (regField w 9) (regField w 6) (field w 0 6)
  | 0x7#4 => .str (regField w 9) (regField w 6) (field w 0 6)
  | 0x8#4 => if fixedOk m w 0 12 0#12 then .rti else .illegal w
  | 0x9#4 => if fixedOk m w 0 6 0b111111#6 then .not (regField w 9) (regField w 6) else .illegal w
  | 0xA#4 => .ldi (regField w 9) (field w 0 9)
  | 0xB#4 => .sti (regField w 9) (field w 0 9)
  | 0xC#4 => if fixedOk m w 9 3 0#3 && fixedOk m w 0 6 0#6 then .jmp (regField w 6) else .illegal w
  | 0xE#4 => .lea (regField w 9) (field w 0 9)
  | 0xF#4 => if fixedOk m w 8 4 0#4 then .trap (field w 0 8) else .illegal w
  | _ => .illegal w   -- 0xD, the reserved opcode

/-- An assembler alias as the core instruction whose words it names (R87, R88, R90; the table's `expands_to`); any
other instruction as itself. -/
def Instr.core : Instr → Instr
  | .ret => .jmp 7
  | .getc => .trap Machine.trapGETC
  | .out => .trap Machine.trapOUT
  | .puts => .trap Machine.trapPUTS
  | .inp => .trap Machine.trapIN
  | .putsp => .trap Machine.trapPUTSP
  | .halt => .trap Machine.trapHALT
  | .brn off => .br true false false off
  | .brz off => .br false true false off
  | .brp off => .br false false true off
  | .brnz off => .br true true false off
  | .brnp off => .br true false true off
  | .brzp off => .br false true true off
  | .brnzp off => .br true true true off
  | .addReg dr sr1 sr2 => .addReg dr sr1 sr2
  | .addImm dr sr1 imm5 => .addImm dr sr1 imm5
  | .andReg dr sr1 sr2 => .andReg dr sr1 sr2
  | .andImm dr sr1 imm5 => .andImm dr sr1 imm5
  | .not dr sr => .not dr sr
  | .br n z p off => .br n z p off
  | .jmp baseR => .jmp baseR
  | .jsr off => .jsr off
  | .jsrr baseR => .jsrr baseR
  | .ld dr off => .ld dr off
  | .ldi dr off => .ldi dr off
  | .ldr dr baseR off => .ldr dr baseR off
  | .lea dr off => .lea dr off
  | .st sr off => .st sr off
  | .sti sr off => .sti sr off
  | .str sr baseR off => .str sr baseR off
  | .rti => .rti
  | .trap v => .trap v
  | .illegal w => .illegal w

/-- A register number's three bits (R71). -/
def Reg.bits (r : Reg) : BitVec 3 := BitVec.ofFin r

/-- One flag as one bit. -/
def flagBit (b : Bool) : BitVec 1 := BitVec.ofBool b

/-- Format `RRR` (R72). -/
def formatRRR (op : BitVec 4) (dr sr1 sr2 : Reg) : Word :=
  op ++ Reg.bits dr ++ Reg.bits sr1 ++ 0b000#3 ++ Reg.bits sr2

/-- Format `RRI` (R73). -/
def formatRRI (op : BitVec 4) (dr sr1 : Reg) (imm5 : BitVec 5) : Word :=
  op ++ Reg.bits dr ++ Reg.bits sr1 ++ 0b1#1 ++ imm5

/-- Format `NOT` (R74). -/
def formatNOT (dr sr : Reg) : Word := 0b1001#4 ++ Reg.bits dr ++ Reg.bits sr ++ 0b111111#6

/-- Format `BR` (R75). -/
def formatBR (n z p : Bool) (off : BitVec 9) : Word :=
  0b0000#4 ++ flagBit n ++ flagBit z ++ flagBit p ++ off

/-- Format `RPC9` (R76). -/
def formatRPC9 (op : BitVec 4) (r : Reg) (off : BitVec 9) : Word := op ++ Reg.bits r ++ off

/-- Format `RRO6` (R77). -/
def formatRRO6 (op : BitVec 4) (r baseR : Reg) (off : BitVec 6) : Word :=
  op ++ Reg.bits r ++ Reg.bits baseR ++ off

/-- Formats `JMP` and `JSRR` (R78), told apart by the opcode. -/
def formatBase (op : BitVec 4) (baseR : Reg) : Word :=
  op ++ 0b000#3 ++ Reg.bits baseR ++ 0b000000#6

/-- Format `JSR` (R78). -/
def formatJSR (off : BitVec 11) : Word := 0b0100#4 ++ 0b1#1 ++ off

/-- Format `RTI` (R78). -/
def formatRTI : Word := 0b1000#4 ++ 0b000000000000#12

/-- Format `TRAP` (R78). -/
def formatTRAP (v : BitVec 8) : Word := 0b1111#4 ++ 0b0000#4 ++ v

/-- The word of an instruction (R72 to R78, R80, R87, R88, R90). -/
def encode : Instr → Word
  | .addReg dr sr1 sr2 => formatRRR 0b0001#4 dr sr1 sr2
  | .addImm dr sr1 imm5 => formatRRI 0b0001#4 dr sr1 imm5
  | .andReg dr sr1 sr2 => formatRRR 0b0101#4 dr sr1 sr2
  | .andImm dr sr1 imm5 => formatRRI 0b0101#4 dr sr1 imm5
  | .not dr sr => formatNOT dr sr
  | .br n z p off => formatBR n z p off
  | .jmp baseR => formatBase 0b1100#4 baseR
  | .jsr off => formatJSR off
  | .jsrr baseR => formatBase 0b0100#4 baseR
  | .ld dr off => formatRPC9 0b0010#4 dr off
  | .ldi dr off => formatRPC9 0b1010#4 dr off
  | .ldr dr baseR off => formatRRO6 0b0110#4 dr baseR off
  | .lea dr off => formatRPC9 0b1110#4 dr off
  | .st sr off => formatRPC9 0b0011#4 sr off
  | .sti sr off => formatRPC9 0b1011#4 sr off
  | .str sr baseR off => formatRRO6 0b0111#4 sr baseR off
  | .rti => formatRTI
  | .trap v => formatTRAP v
  | .illegal w => w
  | .ret => formatBase 0b1100#4 7
  | .getc => formatTRAP 0x20
  | .out => formatTRAP 0x21
  | .puts => formatTRAP 0x22
  | .inp => formatTRAP 0x23
  | .putsp => formatTRAP 0x24
  | .halt => formatTRAP 0x25
  | .brn off => formatBR true false false off
  | .brz off => formatBR false true false off
  | .brp off => formatBR false false true off
  | .brnz off => formatBR true true false off
  | .brnp off => formatBR true false true off
  | .brzp off => formatBR false true true off
  | .brnzp off => formatBR true true true off

/-- The instruction the decoder reads from `nbits` bits of value `w`, numbered as spec/opcode_table.json numbers
them, under the spec's `DECODE_FIXED_BITS`. Every instruction is one word (R70): a length above 16 bits, or a value
that does not fit one word, is no instruction. -/
def decodeTableWord (nbits w : Nat) : Option Instr :=
  if nbits ≤ 16 ∧ w < 65536 then some (decode Params.spec.decodeFixedBits (BitVec.ofNat 16 w)) else none

end Sys2Proof
end

