-- ==== Sys2Proof/Machine/Memory.lean ====
section
/-! DEFINITION. The backing array `M` of 65536 words (20_memory.md R46, R47) and its two accesses. -/

namespace Sys2Proof.Machine

/-- The backing array, as the words that differ from what an unlisted address reads as. The address unit is the
16-bit word, the only unit of access (R46), so a cell is an address and a word (log entry 4). -/
abbrev Memory := List (Nat × Word)

/-- What an unlisted address reads as: memory is zero at power-on (R47, R249). -/
def Memory.blank : Word := 0x0000

/-- The canonical form, from address `lo` up: addresses strictly rising, inside the address space (R46), and no
entry equal to what an unlisted address reads as. -/
def Memory.wfFrom : Nat → Memory → Bool
  | _, [] => true
  | lo, (a, v) :: rest => decide (lo ≤ a) && decide (a < 65536) && v != Memory.blank && Memory.wfFrom (a + 1) rest

/-- The canonical form: equal memories are equal lists. -/
def Memory.wf (m : Memory) : Bool := Memory.wfFrom 0 m

/-- The word listed at an address, or what an unlisted address reads as. -/
def Memory.readAt : Memory → Nat → Word
  | [], _ => Memory.blank
  | (b, v) :: rest, a => if a = b then v else Memory.readAt rest a

/-- A word at the head of a list, unless it is what an unlisted address reads as. -/
def Memory.cons (a : Nat) (v : Word) (rest : Memory) : Memory :=
  if v = Memory.blank then rest else (a, v) :: rest

/-- The list with the word at an address replaced, in canonical form. -/
def Memory.writeAt : Memory → Nat → Word → Memory
  | [], a, v => Memory.cons a v []
  | (b, w) :: rest, a, v =>
    if a < b then Memory.cons a v ((b, w) :: rest)
    else if a = b then Memory.cons a v rest
    else (b, w) :: Memory.writeAt rest a v

/-- `M[a]` (R46). -/
def Memory.read (m : Memory) (a : Word) : Word := Memory.readAt m a.toNat

/-- `M[a] <- v` (R46). -/
def Memory.write (m : Memory) (a : Word) (v : Word) : Memory := Memory.writeAt m a.toNat v

/-- The words of a block written one after another from an address up (20_memory.md R56). -/
def Memory.writeBlock : Memory → Nat → List Word → Memory
  | m, _, [] => m
  | m, a, w :: rest => Memory.writeBlock (Memory.writeAt m a w) (a + 1) rest

end Sys2Proof.Machine
end

