-- ==== Sys2Proof/Machine/Psr.lean ====
section
/-! DEFINITION. The processor-status word's contents and its packed 16-bit form (10_state.md R24, R25, R29, R30). -/

namespace Sys2Proof.Machine

/-- The two privilege modes (R29). -/
inductive Mode where
  /-- PSR.U = 0. -/
  | supervisor
  /-- PSR.U = 1. -/
  | user
  deriving DecidableEq, Repr

/-- What PSR holds (R25). Its reserved bits are always 0, so they are no field (log entry 22). -/
structure Psr where
  /-- `U`. -/
  mode : Mode
  /-- `PL`, the current priority level. -/
  pl : BitVec 3
  /-- `N`. -/
  n : Bool
  /-- `Z`. -/
  z : Bool
  /-- `P`. -/
  p : Bool
  deriving DecidableEq, Repr

/-- `U` as a bit (R25). -/
def Mode.bit : Mode → Bool
  | .supervisor => false
  | .user => true

/-- The mode a `U` bit stands for (R25). -/
def Mode.ofBit (b : Bool) : Mode := if b then .user else .supervisor

/-- PSR as the 16-bit word that entry pushes (R25, R26). -/
def Psr.pack (q : Psr) : Word :=
  BitVec.ofBool q.mode.bit ++ 0#4 ++ q.pl ++ 0#5 ++ BitVec.ofBool q.n ++ BitVec.ofBool q.z ++ BitVec.ofBool q.p

/-- The PSR that a popped word loads: its U, PL, N, Z and P bits; the reserved bits are dropped, which is the mask
0x8707 of R189. -/
def Psr.unpack (w : Word) : Psr where
  mode := Mode.ofBit (w.getLsbD 15)
  pl := w.extractLsb' 8 3
  n := w.getLsbD 2
  z := w.getLsbD 1
  p := w.getLsbD 0

end Sys2Proof.Machine
end

