-- ==== Sys2Proof/Machine/State.lean ====
section
/-! DEFINITION. The machine's state (10_state.md), the reasons a step can stop, and the state after power-on. -/

namespace Sys2Proof.Machine

/-- The engine control states (R36, 41_execution_cycle.md R135). -/
inductive EngineState where
  /-- No step runs; the host may act. -/
  | stopped
  /-- Steps run until a stop condition or halt. -/
  | running
  /-- Steps run until the budget of `step(n)` is used up. -/
  | singleStep
  /-- Terminal until a reset. -/
  | halted
  deriving DecidableEq, Repr

/-- Everything the spec gives the machine, as plain data. -/
structure State where
  /-- R0 to R7 (R20). -/
  regs : Vector Word 8
  /-- PC (R23). -/
  pc : Word
  /-- PSR: mode, priority level, condition codes (R24, R25, R29, R30). -/
  psr : Psr
  /-- SavedSSP (R28). -/
  savedSSP : Word
  /-- SavedUSP (R28). -/
  savedUSP : Word
  /-- The backing array (R46). -/
  memory : Memory
  /-- MCR (R31). -/
  mcr : Word
  /-- KBSR.READY (R32). -/
  kbdReady : Bool
  /-- KBSR.IE (R32). -/
  kbdIE : Bool
  /-- KBDR bits 7:0 (R33). -/
  kbdData : Byte
  /-- DSR.READY (R34). -/
  dsrReady : Bool
  /-- DDR (R35). -/
  ddr : Word
  /-- The output channel, oldest character first (R37). -/
  output : List Byte
  /-- The engine control state (R36). -/
  engine : EngineState
  /-- The breakpoint set, in rising order without repeats (R38; log entry 21). -/
  breakpoints : List Word
  /-- The steps left of the host's budget, if it set one (R134 (b), R264; log entry 7). -/
  budget : Option Nat
  /-- Whether the host has asked for a stop or abort (R134 (c), R141; log entry 7). -/
  stopRequest : Bool
  /-- How many DSR reads have drawn READY; indexes the free value of R224 (log entry 9). -/
  dsrDraws : Nat
  /-- The machine's parameters (R6; log entry 3). No step and no host action changes them. -/
  params : Params
  deriving DecidableEq, Repr

/-- The faults that stop the machine: none. "The engine itself never aborts except on an explicit halt ... or an
externally requested stop/reset" (R142); exceptions are taken, not faults (R198). Safe: no meaning stops where the
spec goes on (log entry 17). -/
inductive Fault where
  deriving DecidableEq, Repr

/-- The refusals. -/
inductive Refusal where
  /-- Raised by an arm of `exec` whose instruction has no meaning yet; safe. No arm raises it now. -/
  | notModelled (mnemonic : String)
  deriving DecidableEq, Repr

/-- The machine right after power-on: R249 and the reset values of R41, under the spec's parameters. R0 to R7,
SavedSSP and SavedUSP are zero: DESIGN CHOICE, the spec gives draws (log entries 1 and 2; the modelled `reset()` of
Machine/HostActions.lean takes the draws as arguments). `budget`, `stopRequest` and `dsrDraws` are the model's own
(log entries 7 and 9). -/
def State.reset : State where
  regs := #v[0, 0, 0, 0, 0, 0, 0, 0]
  pc := Params.spec.resetPC
  psr := Psr.unpack resetPSR
  savedSSP := 0
  savedUSP := 0
  memory := []
  mcr := resetMCR
  kbdReady := false
  kbdIE := false
  kbdData := 0
  dsrReady := true
  ddr := 0
  output := []
  engine := .stopped
  breakpoints := []
  budget := none
  stopRequest := false
  dsrDraws := 0
  params := Params.spec

end Sys2Proof.Machine
end

