-- ==== Sys2Proof/Machine/Flags.lean ====
section
/-! DEFINITION. The condition codes (10_state.md R24, R27; 44_control.md R177). -/

namespace Sys2Proof.Machine

/-- `SetCC(v)` (R27): N, Z and P from the result's signed reading, all three written. -/
def Psr.setCC (q : Psr) (v : Word) : Psr :=
  { q with n := v.msb, z := v == 0, p := !v.msb && v != 0 }

/-- `SetCC(v)` on the machine (R27). -/
def State.setCC (s : State) (v : Word) : State := { s with psr := s.psr.setCC v }

/-- BR's condition (R177): one of the flags the mask names is 1. -/
def Psr.branchTaken (q : Psr) (n z p : Bool) : Bool := (n && q.n) || (z && q.z) || (p && q.p)

end Sys2Proof.Machine
end

