-- ==== Sys2Proof/Machine/Operands.lean ====
section
/-! DEFINITION. Registers as operands and the operand forms (30_encoding.md R71, R79; 43_data_movement.md R168). -/

namespace Sys2Proof.Machine

/-- `R[i]` (R9). -/
def State.reg (s : State) (r : Reg) : Word := s.regs[r.val]

/-- `R[i] <- v` (R9). No register is hardwired (R20). -/
def State.setReg (s : State) (r : Reg) (v : Word) : State := { s with regs := s.regs.set r.val v }

/-- R6, the stack pointer of the active mode (R22). -/
def regSP : Reg := 6

/-- R7, the link register (R21). -/
def regLink : Reg := 7

/-- `sext_N` (R8), for a field of N bits. -/
def sext {n : Nat} (v : BitVec n) : Word := v.signExtend 16

/-- `zext_N` (R8), for a field of N bits. -/
def zext {n : Nat} (v : BitVec n) : Word := v.setWidth 16

/-- PC-relative: `PC + sext(offset)`, PC already incremented (R79, R168). -/
def State.pcRelative {n : Nat} (s : State) (off : BitVec n) : Word := s.pc + sext off

/-- Base plus offset: `R[BaseR] + sext_6(offset6)` (R79, R168). -/
def State.baseOffset (s : State) (baseR : Reg) (off : BitVec 6) : Word := s.reg baseR + sext off

end Sys2Proof.Machine
end

