-- ==== Sys2Proof/Machine/Ops.lean ====
section
/-! DEFINITION. The shared operations: device controllers (60_exceptions.md R217 to R229), the memory intercept
(20_memory.md R52), the user-mode check (R57), the stack, and entering and returning from a trap, an exception or an
interrupt (60_exceptions.md R203, R213; 45_system.md R187, R189). -/

namespace Sys2Proof.Machine

/-- What a meaning answers. -/
abbrev Result := Host.Outcome State Fault Refusal

/-! Device registers, read without side effects. -/

/-- KBSR as a word (R32, R220). -/
def State.kbsr (s : State) : Word := BitVec.ofBool s.kbdReady ++ BitVec.ofBool s.kbdIE ++ 0#14

/-- KBDR as a word (R33). -/
def State.kbdr (s : State) : Word := zext s.kbdData

/-- A DSR word with the given READY (R34, R224). -/
def dsrWord (ready : Bool) : Word := BitVec.ofBool ready ++ 0#15

/-- DSR as a word: READY is 1 at all times under `always` (R34), else as last drawn (log entry 9). -/
def State.dsr (s : State) : Word :=
  match s.params.displayReady with
  | .always => dsrWord true
  | .draw => dsrWord s.dsrReady

/-- The word an address shows, without side effects: the device registers and the backing array as R52 routes them.
It is what the host's `inspect` shows (41_execution_cycle.md R146). -/
def State.peek (s : State) (a : Word) : Word :=
  if a = addrKBSR then s.kbsr
  else if a = addrKBDR then s.kbdr
  else if a = addrDSR then s.dsr
  else if a = addrDDR then s.ddr
  else if a = addrMCR then s.mcr
  else s.memory.read a

/-! Device accesses by the engine. -/

/-- KBSR read (R220): no side effect. -/
def kbsrRead (s : State) : Word × State := (s.kbsr, s)

/-- KBDR read (R221): clears READY. -/
def kbdrRead (s : State) : Word × State := (s.kbdr, { s with kbdReady := false })

/-- DSR read (R224): READY is 1 under `always`; under `draw` each read draws it. -/
def dsrRead (s : State) : Word × State :=
  match s.params.displayReady with
  | .always => (dsrWord true, s)
  | .draw =>
    (dsrWord (Config.displayReadyDraw s.dsrDraws),
      { s with dsrReady := Config.displayReadyDraw s.dsrDraws, dsrDraws := s.dsrDraws + 1 })

/-- DDR read (R226): no side effect. -/
def ddrRead (s : State) : Word × State := (s.ddr, s)

/-- MCR read (R228): no side effect. -/
def mcrRead (s : State) : Word × State := (s.mcr, s)

/-- KBSR write (R222): only IE, bit 14, is written. -/
def kbsrWrite (v : Word) (s : State) : State := { s with kbdIE := v.getLsbD 14 }

/-- KBDR write (R223): ignored. -/
def kbdrWrite (_v : Word) (s : State) : State := s

/-- DSR write (R225): ignored. -/
def dsrWrite (_v : Word) (s : State) : State := s

/-- DDR write (R227): stored, and bits 7:0 go to the output channel. -/
def ddrWrite (v : Word) (s : State) : State :=
  { s with ddr := v, output := s.output ++ [v.extractLsb' 0 8] }

/-- MCR write (R228): stored. The halt it may cause is checked at the end of the step (R133). -/
def mcrWrite (v : Word) (s : State) : State := { s with mcr := v }

/-! The intercept. -/

/-- `MemRead(a, 1)` (R52). -/
def memRead (a : Word) (s : State) : Word × State :=
  if a = addrKBSR then kbsrRead s
  else if a = addrKBDR then kbdrRead s
  else if a = addrDSR then dsrRead s
  else if a = addrDDR then ddrRead s
  else if a = addrMCR then mcrRead s
  else (s.memory.read a, s)

/-- `MemWrite(a, 1, v)` (R52). -/
def memWrite (a v : Word) (s : State) : State :=
  if a = addrKBSR then kbsrWrite v s
  else if a = addrKBDR then kbdrWrite v s
  else if a = addrDSR then dsrWrite v s
  else if a = addrDDR then ddrWrite v s
  else if a = addrMCR then mcrWrite v s
  else { s with memory := s.memory.write a v }

/-! The stack (R9). -/

/-- `Push(v)`. -/
def push (v : Word) (s : State) : State :=
  let sp := s.reg regSP - 1
  memWrite sp v (s.setReg regSP sp)

/-- `Pop()`. -/
def pop (s : State) : Word × State :=
  let (t, s1) := memRead (s.reg regSP) s
  (t, s1.setReg regSP (s1.reg regSP + 1))

/-! Entry and return. -/

/-- Entering supervisor mode: from user mode R6 is saved into SavedUSP and loaded from SavedSSP (R22, R203); then
PSR.U is 0. -/
def switchToSupervisor (s : State) : State :=
  match s.psr.mode with
  | .user =>
    { (s.setReg regSP s.savedSSP) with savedUSP := s.reg regSP, psr := { s.psr with mode := .supervisor } }
  | .supervisor => s

/-- The stack pointer an entry pushes from: SavedSSP from user mode, R6 from supervisor mode (R22, R203). -/
def State.entryStack (s : State) : Word :=
  match s.psr.mode with
  | .user => s.savedSSP
  | .supervisor => s.reg regSP

/-- The entry sequence that traps, exceptions and interrupts share (R187, R203, R213): switch to supervisor mode and
its stack, set PL, push the old PSR and then PC, and load PC from the vector table. -/
def enter (tableEntry : Word) (pl : BitVec 3) (s : State) : State :=
  let oldPSR := s.psr.pack
  let s1 := switchToSupervisor s
  let s2 := { s1 with psr := { s1.psr with pl := pl } }
  let s3 := push oldPSR s2
  let s4 := push s.pc s3
  let (handler, s5) := memRead tableEntry s4
  { s5 with pc := handler }

/-- A trap's entry in the trap vector table (R187, R188). -/
def trapTableEntry (v : BitVec 8) : Word := trapTableBase + zext v

/-- An exception's or interrupt's entry in the interrupt vector table (R202). -/
def interruptTableEntry (v : BitVec 8) : Word := interruptTableBase + zext v

/-- `ExceptionEntry(v)` (R203): PL is unchanged. -/
def exceptionEntry (e : Exception) (s : State) : State := enter (interruptTableEntry e.vector) s.psr.pl s

/-- TRAP's entry (R187): the same through the trap vector table. -/
def trapEntry (v : BitVec 8) (s : State) : State := enter (trapTableEntry v) s.psr.pl s

/-- `InterruptEntry()` (R213): PL is set to the interrupt's priority. -/
def interruptEntry (s : State) : State :=
  enter (interruptTableEntry s.params.kbdIntVector) s.params.kbdIntPriority s

/-- Going back to user mode, if that is the mode PSR now names: R6 is saved into SavedSSP and loaded from SavedUSP
(R22, R189). -/
def switchToRestoredMode (s : State) : State :=
  match s.psr.mode with
  | .user => { (s.setReg regSP s.savedUSP) with savedSSP := s.reg regSP }
  | .supervisor => s

/-- The return from a trap, exception or interrupt (R189, R205): pop PC, pop PSR, restore the stack pointer. -/
def returnFromEntry (s : State) : State :=
  let (newPC, s1) := pop s
  let (newPSR, s2) := pop { s1 with pc := newPC }
  switchToRestoredMode { s2 with psr := Psr.unpack newPSR }

/-- `raise E` (R9, R130): the instruction's remaining effects are not performed, and the exception is entered. -/
def raise (e : Exception) (s : State) : Result := .next (exceptionEntry e s)

/-! The user-mode access check. -/

/-- Whether `Checked(a)` raises (R57): a user-mode access outside `USER_WINDOW`. -/
def State.violates (s : State) (a : Word) : Bool :=
  s.psr.mode == .user && !s.params.inUserWindow a

/-- `Checked(a)`, then the rest of the instruction (R57). -/
def checked (a : Word) (s : State) (rest : State → Result) : Result :=
  if s.violates a then raise .accessViolation s else rest s

end Sys2Proof.Machine
end

