-- ==== Sys2Proof/Machine/Cycle.lean ====
section
/-! DEFINITION. The parts of a step around `Execute` (41_execution_cycle.md R127, R128, R133, R134; 60_exceptions.md
R211, R212). -/

namespace Sys2Proof.Machine

/-- Whether steps run (R127, R135). -/
def State.active (s : State) : Bool :=
  match s.engine with
  | .running | .singleStep => true
  | .stopped | .halted => false

/-- Whether the fetch raises ACV instead of being performed (R127, R128). -/
def fetchViolates (s : State) : Bool := s.violates s.pc

/-- A fetch that raises ACV: PC is incremented and the exception entered; no word is read (R127, R128). -/
def fetchAccessViolation (s : State) : State := exceptionEntry .accessViolation { s with pc := s.pc + 1 }

/-- The fetch (R127, R128): the word at PC, read through the intercept, and PC incremented. -/
def fetch (s : State) : Word × State :=
  let (w, s1) := memRead s.pc s
  (w, { s1 with pc := s1.pc + 1 })

/-- `InterruptPending()` (R211): level-sensitive, and only above the current priority (R209, R212). -/
def interruptPending (s : State) : Bool :=
  s.kbdReady && s.kbdIE && decide (s.psr.pl < s.params.kbdIntPriority)

/-- The host's budget after one more step (R134 (b)). -/
def State.budgetAfterStep (s : State) : Option Nat := s.budget.map fun n => n - 1

/-- Whether the stop check stops the engine (R134 (a) to (c); the breakpoint case in `Running` only). -/
def stopDue (s : State) : Bool :=
  (s.engine == .running && s.breakpoints.contains s.pc) || s.budgetAfterStep == some 0 || s.stopRequest

/-- `StopCheck()` (R134): no architectural state changes. A stop request is used up by the stop (log entry 7). -/
def stopCheck (s : State) : State :=
  { s with
    budget := s.budgetAfterStep
    stopRequest := false
    engine := if stopDue s then .stopped else s.engine }

/-- The step boundary (R127 step 8): the halt check, else the interrupt check and entry and then the stop check. -/
def boundary (s : State) : State :=
  if s.mcr.getLsbD 15 then stopCheck (if interruptPending s then interruptEntry s else s)
  else { s with engine := .halted }

/-- The boundary after whatever the step's instruction answered. -/
def atBoundary : Result → Result
  | .next s => .next (boundary s)
  | .fault f => .fault f
  | .refused r => .refused r

end Sys2Proof.Machine
end

