-- ==== Sys2Proof/Machine/ControlTransfer.lean ====
section
/-! DEFINITION. The control transfer instructions (44_control.md R177 to R184) and their aliases (30_encoding.md R87,
R90). -/

namespace Sys2Proof.Machine

/-- A conditional branch with a condition mask (R177). -/
def branch (n z p : Bool) (off : BitVec 9) (s : State) : State :=
  if s.psr.branchTaken n z p then { s with pc := s.pcRelative off } else s

/-- A jump through a register: `pc <- R[BaseR]` (R179). -/
def jumpThrough (baseR : Reg) (s : State) : State := { s with pc := s.reg baseR }

/-- A call: `R[7] <- PC; pc <- t`, the target read before (R181, R182). -/
def callTo (target : Word) (s : State) : State := { (s.setReg regLink s.pc) with pc := target }

/-- BR (R177, R178). -/
def execBr (n z p : Bool) (off : BitVec 9) (s : State) : Result := .next (branch n z p off s)

/-- JMP (R179). -/
def execJmp (baseR : Reg) (s : State) : Result := .next (jumpThrough baseR s)

/-- JSR (R181). -/
def execJsr (off : BitVec 11) (s : State) : Result := .next (callTo (s.pcRelative off) s)

/-- JSRR (R182). -/
def execJsrr (baseR : Reg) (s : State) : Result := .next (callTo (s.reg baseR) s)

/-- RET: `JMP R7` (R180). -/
def execRet (s : State) : Result := .next (jumpThrough regLink s)

/-- BRn: mask 100 (R87). -/
def execBrn (off : BitVec 9) (s : State) : Result := .next (branch true false false off s)

/-- BRz: mask 010 (R87). -/
def execBrz (off : BitVec 9) (s : State) : Result := .next (branch false true false off s)

/-- BRp: mask 001 (R87). -/
def execBrp (off : BitVec 9) (s : State) : Result := .next (branch false false true off s)

/-- BRnz: mask 110 (R87). -/
def execBrnz (off : BitVec 9) (s : State) : Result := .next (branch true true false off s)

/-- BRnp: mask 101 (R87). -/
def execBrnp (off : BitVec 9) (s : State) : Result := .next (branch true false true off s)

/-- BRzp: mask 011 (R87). -/
def execBrzp (off : BitVec 9) (s : State) : Result := .next (branch false true true off s)

/-- BRnzp: mask 111 (R87). -/
def execBrnzp (off : BitVec 9) (s : State) : Result := .next (branch true true true off s)

end Sys2Proof.Machine
end

