-- ==== Sys2Proof/Machine/Operate.lean ====
section
/-! DEFINITION. The operate instructions (42_operate.md R150 to R155). -/

namespace Sys2Proof.Machine

/-- `R[DR] <- v; SetCC(v)`. -/
def writeResult (dr : Reg) (v : Word) (s : State) : State := (s.setReg dr v).setCC v

/-- ADD, register form (R150). -/
def execAddReg (dr sr1 sr2 : Reg) (s : State) : Result := .next (writeResult dr (s.reg sr1 + s.reg sr2) s)

/-- ADD, immediate form (R151). -/
def execAddImm (dr sr1 : Reg) (imm5 : BitVec 5) (s : State) : Result :=
  .next (writeResult dr (s.reg sr1 + sext imm5) s)

/-- AND, register form (R152). -/
def execAndReg (dr sr1 sr2 : Reg) (s : State) : Result := .next (writeResult dr (s.reg sr1 &&& s.reg sr2) s)

/-- AND, immediate form (R153). -/
def execAndImm (dr sr1 : Reg) (imm5 : BitVec 5) (s : State) : Result :=
  .next (writeResult dr (s.reg sr1 &&& sext imm5) s)

/-- NOT (R154). -/
def execNot (dr sr : Reg) (s : State) : Result := .next (writeResult dr (~~~ s.reg sr) s)

end Sys2Proof.Machine
end

