-- ==== Sys2Proof/Machine/DataMovement.lean ====
section
/-! DEFINITION. The data movement instructions (43_data_movement.md R160 to R169). -/

namespace Sys2Proof.Machine

/-- The load that LD, LDI and LDR end with: `Checked(ea); v <- MemRead(ea, 1); R[DR] <- v; SetCC(v)`. -/
def loadFrom (dr : Reg) (ea : Word) (s : State) : Result :=
  checked ea s fun s =>
    let (v, s1) := memRead ea s
    .next (writeResult dr v s1)

/-- The store that ST, STI and STR end with: `Checked(ea); MemWrite(ea, 1, R[SR])`. -/
def storeTo (sr : Reg) (ea : Word) (s : State) : Result :=
  checked ea s fun s => .next (memWrite ea (s.reg sr) s)

/-- The pointer read of LDI and STI: `Checked(pa); ea <- MemRead(pa, 1)`, then the access at `ea` (R169). -/
def throughPointer (pa : Word) (s : State) (access : Word → State → Result) : Result :=
  checked pa s fun s =>
    let (ea, s1) := memRead pa s
    access ea s1

/-- LD (R160). -/
def execLd (dr : Reg) (off : BitVec 9) (s : State) : Result := loadFrom dr (s.pcRelative off) s

/-- LDI (R161). -/
def execLdi (dr : Reg) (off : BitVec 9) (s : State) : Result := throughPointer (s.pcRelative off) s (loadFrom dr)

/-- LDR (R162). -/
def execLdr (dr baseR : Reg) (off : BitVec 6) (s : State) : Result := loadFrom dr (s.baseOffset baseR off) s

/-- LEA (R163): no access; the flags are set only under `LEA_SETS_CC`. -/
def execLea (dr : Reg) (off : BitVec 9) (s : State) : Result :=
  let ea := s.pcRelative off
  let s1 := s.setReg dr ea
  .next (if s.params.leaSetsCC then s1.setCC ea else s1)

/-- ST (R165). -/
def execSt (sr : Reg) (off : BitVec 9) (s : State) : Result := storeTo sr (s.pcRelative off) s

/-- STI (R166). -/
def execSti (sr : Reg) (off : BitVec 9) (s : State) : Result := throughPointer (s.pcRelative off) s (storeTo sr)

/-- STR (R167). -/
def execStr (sr baseR : Reg) (off : BitVec 6) (s : State) : Result := storeTo sr (s.baseOffset baseR off) s

end Sys2Proof.Machine
end

