-- ==== Sys2Proof/Machine/System.lean ====
section
/-! DEFINITION. The system instructions (45_system.md R187 to R193) and the trap aliases (30_encoding.md R88). -/

namespace Sys2Proof.Machine

/-- TRAP (R187), allowed in both modes. -/
def execTrap (v : BitVec 8) (s : State) : Result := .next (trapEntry v s)

/-- RTI (R189): in user mode it raises and pops nothing (R190). -/
def execRti (s : State) : Result :=
  match s.psr.mode with
  | .user => raise .privilegeViolation s
  | .supervisor => .next (returnFromEntry s)

/-- The illegal instruction (R192), in both modes and whatever the word. -/
def execIllegal (_w : Word) (s : State) : Result := raise .illegalOpcode s

/-- GETC: `TRAP x20` (R88). -/
def execGetc (s : State) : Result := .next (trapEntry trapGETC s)

/-- OUT: `TRAP x21` (R88). -/
def execOut (s : State) : Result := .next (trapEntry trapOUT s)

/-- PUTS: `TRAP x22` (R88). -/
def execPuts (s : State) : Result := .next (trapEntry trapPUTS s)

/-- IN: `TRAP x23` (R88). -/
def execIn (s : State) : Result := .next (trapEntry trapIN s)

/-- PUTSP: `TRAP x24` (R88). -/
def execPutsp (s : State) : Result := .next (trapEntry trapPUTSP s)

/-- HALT: `TRAP x25` (R88). -/
def execHalt (s : State) : Result := .next (trapEntry trapHALT s)

end Sys2Proof.Machine
end

