-- ==== Sys2Proof/Machine/Dispatch.lean ====
section
/-! DEFINITION. `Execute(I)` (41_execution_cycle.md R126): one arm per instruction. -/

namespace Sys2Proof.Machine

/-- `Execute(I)` (R126), at a state whose PC is already incremented (R128). -/
def exec (i : Instr) (s : State) : Host.Outcome State Fault Refusal :=
  match i with
  | .addReg dr sr1 sr2 => Sys2Proof.Machine.execAddReg dr sr1 sr2 s
  | .addImm dr sr1 imm5 => Sys2Proof.Machine.execAddImm dr sr1 imm5 s
  | .andReg dr sr1 sr2 => Sys2Proof.Machine.execAndReg dr sr1 sr2 s
  | .andImm dr sr1 imm5 => Sys2Proof.Machine.execAndImm dr sr1 imm5 s
  | .not dr sr => Sys2Proof.Machine.execNot dr sr s
  | .br n z p off => Sys2Proof.Machine.execBr n z p off s
  | .jmp baseR => Sys2Proof.Machine.execJmp baseR s
  | .jsr off => Sys2Proof.Machine.execJsr off s
  | .jsrr baseR => Sys2Proof.Machine.execJsrr baseR s
  | .ld dr off => Sys2Proof.Machine.execLd dr off s
  | .ldi dr off => Sys2Proof.Machine.execLdi dr off s
  | .ldr dr baseR off => Sys2Proof.Machine.execLdr dr baseR off s
  | .lea dr off => Sys2Proof.Machine.execLea dr off s
  | .st sr off => Sys2Proof.Machine.execSt sr off s
  | .sti sr off => Sys2Proof.Machine.execSti sr off s
  | .str sr baseR off => Sys2Proof.Machine.execStr sr baseR off s
  | .rti => Sys2Proof.Machine.execRti s
  | .trap v => Sys2Proof.Machine.execTrap v s
  | .illegal w => Sys2Proof.Machine.execIllegal w s
  | .ret => Sys2Proof.Machine.execRet s
  | .getc => Sys2Proof.Machine.execGetc s
  | .out => Sys2Proof.Machine.execOut s
  | .puts => Sys2Proof.Machine.execPuts s
  | .inp => Sys2Proof.Machine.execIn s
  | .putsp => Sys2Proof.Machine.execPutsp s
  | .halt => Sys2Proof.Machine.execHalt s
  | .brn off => Sys2Proof.Machine.execBrn off s
  | .brz off => Sys2Proof.Machine.execBrz off s
  | .brp off => Sys2Proof.Machine.execBrp off s
  | .brnz off => Sys2Proof.Machine.execBrnz off s
  | .brnp off => Sys2Proof.Machine.execBrnp off s
  | .brzp off => Sys2Proof.Machine.execBrzp off s
  | .brnzp off => Sys2Proof.Machine.execBrnzp off s

end Sys2Proof.Machine
end

