-- ==== Sys2Proof/Machine/Execute.lean ====
section
/-! DEFINITION. Fetch, decode and execute: steps 1 to 7 of one step (41_execution_cycle.md R127 to R130). -/

namespace Sys2Proof.Machine

/-- Fetch, decode and execute (R127): an instruction fetch that raises ACV is not performed (R128); else the word at
PC is decoded (R129) and executed at the state whose PC is incremented. -/
def fetchAndExecute (s : State) : Result :=
  if fetchViolates s then .next (fetchAccessViolation s)
  else exec (decode s.params.decodeFixedBits (fetch s).1) (fetch s).2

end Sys2Proof.Machine
end

