-- ==== Sys2Proof/Machine/Step.lean ====
section
/-! DEFINITION. One step of the engine (41_execution_cycle.md R127). -/

namespace Sys2Proof.Machine

/-- `Step()` (R127). In `Stopped` and `Halted` no step runs and the state is unchanged (R135, R139; log entry 5). -/
def step (s : State) : Host.Outcome State Fault Refusal :=
  if s.active then atBoundary (fetchAndExecute s) else .next s

/-- The state with a one-word instruction (bits as spec/opcode_table.json numbers them) loaded at PC and the engine
running, so that the next step runs it: it stands for the host's `load` and `run` (R250; log entry 6). The word goes
to the backing array, where a fetch at any address but the five device registers reads it. -/
def State.withFetchWord (s : State) (nbits w : Nat) : State :=
  { s with
    memory := s.memory.write s.pc (BitVec.ofNat 16 (w % 2 ^ nbits))
    engine := if s.active then s.engine else .running }

end Sys2Proof.Machine
end

