-- ==== Sys2Proof/Machine/Encoder.lean ====
section
/-! DEFINITION. The instruction encoder unit (40_encoder.md R100 to R118): a pure function from a catalog pattern,
operand tokens, the line's address and a label map to a word or an encoding error. -/

namespace Sys2Proof.Machine.Encoder

/-- A field's name in an error (R113). -/
inductive FieldName where
  | imm5
  | offset6
  | pcOffset9
  | pcOffset11
  | trapvect8
  | fill16
  deriving DecidableEq, Repr

/-- An operand token (R102). A literal's radix does not change its value, so it is not kept. -/
inductive Token where
  /-- `Reg(k)`. -/
  | reg (k : Nat)
  /-- `Num(v)`. -/
  | num (v : Int)
  /-- `Lbl(name)`. -/
  | lbl (name : String)
  deriving DecidableEq, Repr

/-- A numeric slot's signedness (R103). -/
inductive Signedness where
  | signed
  | unsigned
  deriving DecidableEq, Repr

/-- One field of a pattern (R103); `hi` and `lo` are its end bits, `k` the operand's index. -/
inductive Slot where
  /-- `Fixed(hi, lo, v)`. -/
  | fixed (hi lo : Nat) (v : Nat)
  /-- `RegS(hi, lo, k)`. -/
  | regS (hi lo k : Nat)
  /-- `ImmS(hi, lo, k, sign, name)`. -/
  | immS (hi lo k : Nat) (sign : Signedness) (name : FieldName)
  /-- `OffS(hi, lo, k, name)`. -/
  | offS (hi lo k : Nat) (name : FieldName)
  /-- `AbsS(hi, lo, k)`. -/
  | absS (hi lo k : Nat)
  deriving DecidableEq, Repr

/-- The end bits of a slot. -/
def Slot.bits : Slot → Nat × Nat
  | .fixed hi lo _ => (hi, lo)
  | .regS hi lo _ => (hi, lo)
  | .immS hi lo _ _ _ => (hi, lo)
  | .offS hi lo _ _ => (hi, lo)
  | .absS hi lo _ => (hi, lo)

/-- The catalog's patterns (R114). -/
inductive Pattern where
  | addR | addI | andR | andI | not
  | br | brn | brz | brp | brnz | brnp | brzp | brnzp
  | jmp | ret | jsr | jsrr
  | ld | ldi | ldr | lea | st | sti | str
  | rti | trap | getc | out | puts | inp | putsp | halt
  | fill
  deriving DecidableEq, Repr

/-- Every pattern of the catalog, in its order. -/
def catalog : List Pattern :=
  [ .addR, .addI, .andR, .andI, .not,
    .br, .brn, .brz, .brp, .brnz, .brnp, .brzp, .brnzp,
    .jmp, .ret, .jsr, .jsrr,
    .ld, .ldi, .ldr, .lea, .st, .sti, .str,
    .rti, .trap, .getc, .out, .puts, .inp, .putsp, .halt,
    .fill ]

/-- The slots of the register form of ADD and AND. -/
def slotsRRR (op : Nat) : List Slot :=
  [.fixed 15 12 op, .regS 11 9 0, .regS 8 6 1, .fixed 5 3 0, .regS 2 0 2]

/-- The slots of the immediate form of ADD and AND. -/
def slotsRRI (op : Nat) : List Slot :=
  [.fixed 15 12 op, .regS 11 9 0, .regS 8 6 1, .fixed 5 5 1, .immS 4 0 2 .signed .imm5]

/-- The slots of a BR variant. -/
def slotsBR (mask : Nat) : List Slot := [.fixed 15 12 0b0000, .fixed 11 9 mask, .offS 8 0 0 .pcOffset9]

/-- The slots of LD, LDI, LEA, ST and STI. -/
def slotsRPC9 (op : Nat) : List Slot := [.fixed 15 12 op, .regS 11 9 0, .offS 8 0 1 .pcOffset9]

/-- The slots of LDR and STR. -/
def slotsRRO6 (op : Nat) : List Slot :=
  [.fixed 15 12 op, .regS 11 9 0, .regS 8 6 1, .immS 5 0 2 .signed .offset6]

/-- The slots of JMP and JSRR. -/
def slotsBase (op : Nat) : List Slot := [.fixed 15 12 op, .fixed 11 9 0b000, .regS 8 6 0, .fixed 5 0 0]

/-- The slots of a trap alias. -/
def slotsTrapAlias (v : Nat) : List Slot := [.fixed 15 12 0b1111, .fixed 11 8 0b0000, .fixed 7 0 v]

/-- A pattern's slots, in descending bit order (R104, R114). -/
def Pattern.slots : Pattern → List Slot
  | .addR => slotsRRR 0b0001
  | .addI => slotsRRI 0b0001
  | .andR => slotsRRR 0b0101
  | .andI => slotsRRI 0b0101
  | .not => [.fixed 15 12 0b1001, .regS 11 9 0, .regS 8 6 1, .fixed 5 0 0b111111]
  | .br => slotsBR 0b111
  | .brn => slotsBR 0b100
  | .brz => slotsBR 0b010
  | .brp => slotsBR 0b001
  | .brnz => slotsBR 0b110
  | .brnp => slotsBR 0b101
  | .brzp => slotsBR 0b011
  | .brnzp => slotsBR 0b111
  | .jmp => slotsBase 0b1100
  | .ret => [.fixed 15 12 0b1100, .fixed 11 9 0b000, .fixed 8 6 0b111, .fixed 5 0 0]
  | .jsr => [.fixed 15 12 0b0100, .fixed 11 11 1, .offS 10 0 0 .pcOffset11]
  | .jsrr => slotsBase 0b0100
  | .ld => slotsRPC9 0b0010
  | .ldi => slotsRPC9 0b1010
  | .ldr => slotsRRO6 0b0110
  | .lea => slotsRPC9 0b1110
  | .st => slotsRPC9 0b0011
  | .sti => slotsRPC9 0b1011
  | .str => slotsRRO6 0b0111
  | .rti => [.fixed 15 12 0b1000, .fixed 11 0 0]
  | .trap => [.fixed 15 12 0b1111, .fixed 11 8 0b0000, .immS 7 0 0 .unsigned .trapvect8]
  | .getc => slotsTrapAlias 0x20
  | .out => slotsTrapAlias 0x21
  | .puts => slotsTrapAlias 0x22
  | .inp => slotsTrapAlias 0x23
  | .putsp => slotsTrapAlias 0x24
  | .halt => slotsTrapAlias 0x25
  | .fill => [.absS 15 0 0]

/-- Whether slots, in order, cover bits `n - 1` down to 0 exactly once (R104). -/
def coversFrom : Nat → List Slot → Bool
  | n, [] => n == 0
  | n, sl :: rest => decide (sl.bits.1 + 1 = n) && decide (sl.bits.2 ≤ sl.bits.1) && coversFrom sl.bits.2 rest

/-- What an operand must be for a slot (R101 (a), R103). -/
inductive OperandKind where
  | register
  | number
  | numberOrLabel
  deriving DecidableEq, Repr

/-- The operand a slot takes, if it takes one. -/
def Slot.operand : Slot → Option (Nat × OperandKind)
  | .fixed _ _ _ => none
  | .regS _ _ k => some (k, .register)
  | .immS _ _ k _ _ => some (k, .number)
  | .offS _ _ k _ => some (k, .numberOrLabel)
  | .absS _ _ k => some (k, .numberOrLabel)

/-- A pattern's operand shape. Every catalog row takes its operands in bit order, so the shape is the slots' own
(R86, R114). -/
def Pattern.shape (p : Pattern) : List OperandKind := p.slots.filterMap fun sl => sl.operand.map Prod.snd

/-- Whether a token is of a kind (R101 (a)). -/
def OperandKind.admits : OperandKind → Token → Bool
  | .register, .reg _ => true
  | .number, .num _ => true
  | .numberOrLabel, .num _ => true
  | .numberOrLabel, .lbl _ => true
  | .register, .num _ => false
  | .register, .lbl _ => false
  | .number, .reg _ => false
  | .number, .lbl _ => false
  | .numberOrLabel, .reg _ => false

/-- Whether tokens have a shape: the same number, each of the kind its slot takes (R101 (a)). -/
def shapeFits : List OperandKind → List Token → Bool
  | [], [] => true
  | kind :: kinds, t :: ts => kind.admits t && shapeFits kinds ts
  | [], _ :: _ => false
  | _ :: _, [] => false

/-- Whether a register token holds 0 to 7 (R101 (b)). -/
def Token.registerOk : Token → Bool
  | .reg k => decide (k ≤ 7)
  | .num _ => true
  | .lbl _ => true

/-- The preconditions the caller guarantees (R101). -/
def preconditions (p : Pattern) (tokens : List Token) : Bool :=
  shapeFits p.shape tokens && tokens.all Token.registerOk

/-- The label map: label names and their addresses (R100); the first entry of a name counts (log entry 15). -/
abbrev LabelMap := List (String × Word)

/-- An encoding error (R110). -/
inductive EncodingError where
  /-- `OutOfRange(field, lo, hi)`. -/
  | outOfRange (name : FieldName) (lo hi : Int)
  /-- `UnresolvedLabel(name)` (R108). -/
  | unresolvedLabel (name : String)
  deriving DecidableEq, Repr

/-- What the encoder answers. -/
inductive EncodeResult where
  /-- The line's word. -/
  | word (w : Word)
  /-- The first violation in slot order, and no word (R110). -/
  | error (e : EncodingError)
  /-- No word and no error: the input breaks a precondition (R101, UB16; log entry 12). -/
  | refused
  deriving DecidableEq, Repr

/-- `Range(signed, w)` and `Range(unsigned, w)` (R105). -/
def range : Signedness → Nat → Int × Int
  | .signed, w => (-(2 : Int) ^ (w - 1), (2 : Int) ^ (w - 1) - 1)
  | .unsigned, w => (0, (2 : Int) ^ w - 1)

/-- A value placed in bits `hi` to `lo`: its two's-complement representation truncated to the slot's width, `v mod
2^w` (R106). -/
def place (hi lo : Nat) (v : Int) : Word := (BitVec.ofInt (hi - lo + 1) v).setWidth 16 <<< lo

/-- A value checked against a range and placed (R105, R106): never wrapped into range. -/
def placeChecked (hi lo : Nat) (bounds : Int × Int) (name : FieldName) (v : Int) : Except EncodingError Word :=
  if v < bounds.1 ∨ bounds.2 < v then .error (.outOfRange name bounds.1 bounds.2) else .ok (place hi lo v)

/-- A label's address (R107, R108). -/
def labelAddress (labels : LabelMap) (name : String) : Except EncodingError Word :=
  match labels.lookup name with
  | some a => .ok a
  | none => .error (.unresolvedLabel name)

/-- The displacement from the word after address `lineAddr`, in mathematical integers, with no wrap (R107). -/
def displacement (target lineAddr : Word) : Int := (target.toNat : Int) - ((lineAddr.toNat : Int) + 1)

/-- The bits one slot contributes, or its violation (R109, R118). A token of the wrong kind contributes none: the
preconditions rule it out. -/
def slotBits (tokens : List Token) (lineAddr : Word) (labels : LabelMap) : Slot → Except EncodingError Word
  | .fixed hi lo v => .ok (place hi lo v)
  | .regS hi lo k =>
    match tokens[k]? with
    | some (.reg r) => .ok (place hi lo r)
    | some (.num _) | some (.lbl _) | none => .ok 0
  | .immS hi lo k sign name =>
    match tokens[k]? with
    | some (.num v) => placeChecked hi lo (range sign (hi - lo + 1)) name v
    | some (.reg _) | some (.lbl _) | none => .ok 0
  | .offS hi lo k name =>
    match tokens[k]? with
    | some (.num v) => placeChecked hi lo (range .signed (hi - lo + 1)) name v
    | some (.lbl x) =>
      match labelAddress labels x with
      | .ok target => placeChecked hi lo (range .signed (hi - lo + 1)) name (displacement target lineAddr)
      | .error e => .error e
    | some (.reg _) | none => .ok 0
  | .absS hi lo k =>
    match tokens[k]? with
    | some (.num v) => placeChecked hi lo (-32768, 65535) .fill16 v
    | some (.lbl x) => labelAddress labels x
    | some (.reg _) | none => .ok 0

/-- The slots' bits gathered in slot order, stopping at the first violation (R109, R110). Each slot's bits land in
bits that are still 0 (R104). -/
def gather (tokens : List Token) (lineAddr : Word) (labels : LabelMap) : List Slot → Word → Except EncodingError Word
  | [], w => .ok w
  | sl :: rest, w =>
    match slotBits tokens lineAddr labels sl with
    | .ok b => gather tokens lineAddr labels rest (w ||| b)
    | .error e => .error e

/-- `encode(pattern, tokens, A, L)` (R100, R109). -/
def encodeLine (p : Pattern) (tokens : List Token) (lineAddr : Word) (labels : LabelMap) : EncodeResult :=
  if preconditions p tokens then
    match gather tokens lineAddr labels p.slots 0 with
    | .ok w => .word w
    | .error e => .error e
  else .refused

/-- A unit's lines, encoded one by one: one line's error does not stop the unit (R112). -/
def encodeUnit (labels : LabelMap) (lines : List (Pattern × List Token × Word)) : List EncodeResult :=
  lines.map fun l => encodeLine l.1 l.2.1 l.2.2 labels

/-- `findReg` (R116, R85): the number of the register a token's text spells, `R0` to `R7` in either case. -/
def findReg (text : List Char) : Option Nat :=
  match text with
  | [r, d] =>
    if (r = 'R' ∨ r = 'r') ∧ '0'.toNat ≤ d.toNat ∧ d.toNat ≤ '7'.toNat then some (d.toNat - '0'.toNat) else none
  | [] | [_] | _ :: _ :: _ :: _ => none

/-- `findInstruction` (R116): every catalog pattern whose operand shape the tokens match. -/
def findInstruction (tokens : List Token) : List Pattern := catalog.filter fun p => shapeFits p.shape tokens

/-! What a line stands for, to state the round trip of R117. -/

/-- An operand's integer: a literal's value, or a label's displacement (R107). -/
def Token.operandInt (lineAddr : Word) (labels : LabelMap) : Token → Option Int
  | .num v => some v
  | .lbl x => (labels.lookup x).map fun target => displacement target lineAddr
  | .reg _ => none

/-- A register token as a register. -/
def Token.asReg : Token → Reg
  | .reg k => Fin.ofNat 8 k
  | .num _ => 0
  | .lbl _ => 0

/-- The integer of the line's one operand that is not a register, if the pattern has one (R110, R114). -/
def lineInt (tokens : List Token) (lineAddr : Word) (labels : LabelMap) : Option Int :=
  tokens.findSome? (Token.operandInt lineAddr labels)

/-- The operand registers of a line, in order. -/
def lineReg (tokens : List Token) (k : Nat) : Reg := ((tokens[k]?).map Token.asReg).getD 0

/-- The instruction a line stands for (R86, R114, R117), given its integer operand; none for `.FILL`, which encodes
no instruction. -/
def Pattern.instr (p : Pattern) (tokens : List Token) (v : Int) : Option Instr :=
  match p with
  | .addR => some (.addReg (lineReg tokens 0) (lineReg tokens 1) (lineReg tokens 2))
  | .addI => some (.addImm (lineReg tokens 0) (lineReg tokens 1) (BitVec.ofInt 5 v))
  | .andR => some (.andReg (lineReg tokens 0) (lineReg tokens 1) (lineReg tokens 2))
  | .andI => some (.andImm (lineReg tokens 0) (lineReg tokens 1) (BitVec.ofInt 5 v))
  | .not => some (.not (lineReg tokens 0) (lineReg tokens 1))
  | .br => some (.br true true true (BitVec.ofInt 9 v))
  | .brn => some (.brn (BitVec.ofInt 9 v))
  | .brz => some (.brz (BitVec.ofInt 9 v))
  | .brp => some (.brp (BitVec.ofInt 9 v))
  | .brnz => some (.brnz (BitVec.ofInt 9 v))
  | .brnp => some (.brnp (BitVec.ofInt 9 v))
  | .brzp => some (.brzp (BitVec.ofInt 9 v))
  | .brnzp => some (.brnzp (BitVec.ofInt 9 v))
  | .jmp => some (.jmp (lineReg tokens 0))
  | .ret => some .ret
  | .jsr => some (.jsr (BitVec.ofInt 11 v))
  | .jsrr => some (.jsrr (lineReg tokens 0))
  | .ld => some (.ld (lineReg tokens 0) (BitVec.ofInt 9 v))
  | .ldi => some (.ldi (lineReg tokens 0) (BitVec.ofInt 9 v))
  | .ldr => some (.ldr (lineReg tokens 0) (lineReg tokens 1) (BitVec.ofInt 6 v))
  | .lea => some (.lea (lineReg tokens 0) (BitVec.ofInt 9 v))
  | .st => some (.st (lineReg tokens 0) (BitVec.ofInt 9 v))
  | .sti => some (.sti (lineReg tokens 0) (BitVec.ofInt 9 v))
  | .str => some (.str (lineReg tokens 0) (lineReg tokens 1) (BitVec.ofInt 6 v))
  | .rti => some .rti
  | .trap => some (.trap (BitVec.ofInt 8 v))
  | .getc => some .getc
  | .out => some .out
  | .puts => some .puts
  | .inp => some .inp
  | .putsp => some .putsp
  | .halt => some .halt
  | .fill => none

/-- A field's name and legal range (R113). -/
def FieldName.legal : FieldName → Int × Int
  | .imm5 => (-16, 15)
  | .offset6 => (-32, 31)
  | .pcOffset9 => (-256, 255)
  | .pcOffset11 => (-1024, 1023)
  | .trapvect8 => (0, 255)
  | .fill16 => (-32768, 65535)

/-- The field of a pattern's one operand that is not a register, if it has one (R110, R113, R114). -/
def Pattern.numericField : Pattern → Option FieldName
  | .addI | .andI => some .imm5
  | .ldr | .str => some .offset6
  | .br | .brn | .brz | .brp | .brnz | .brnp | .brzp | .brnzp => some .pcOffset9
  | .ld | .ldi | .lea | .st | .sti => some .pcOffset9
  | .jsr => some .pcOffset11
  | .trap => some .trapvect8
  | .fill => some .fill16
  | .addR | .andR | .not | .jmp | .ret | .jsrr | .rti => none
  | .getc | .out | .puts | .inp | .putsp | .halt => none

/-- The integer an instruction's immediate, offset or vector field stands for (R79). -/
def numericOperand : Instr → Option Int
  | .addImm _ _ imm5 | .andImm _ _ imm5 => some imm5.toInt
  | .ldr _ _ off | .str _ _ off => some off.toInt
  | .br _ _ _ off => some off.toInt
  | .ld _ off | .ldi _ off | .lea _ off | .st _ off | .sti _ off => some off.toInt
  | .jsr off => some off.toInt
  | .trap v => some v.toNat
  | .addReg _ _ _ | .andReg _ _ _ | .not _ _ | .jmp _ | .jsrr _ | .rti | .illegal _ => none
  | .getc => some trapGETC.toNat
  | .out => some trapOUT.toNat
  | .puts => some trapPUTS.toNat
  | .inp => some trapIN.toNat
  | .putsp => some trapPUTSP.toNat
  | .halt => some trapHALT.toNat
  | .ret => none
  | .brn off | .brz off | .brp off | .brnz off | .brnp off | .brzp off | .brnzp off => some off.toInt

end Sys2Proof.Machine.Encoder
end

