-- ==== Sys2Proof/Machine/HostActions.lean ====
section
/-! DEFINITION. The host's control surface (41_execution_cycle.md R136 to R148; 20_memory.md R56; 60_exceptions.md
R219; 70_reset_and_hazards.md R246). Each action happens between steps (log entry 14). -/

namespace Sys2Proof.Machine

/-- The draws of one reset (R6, R246): `RESET_GPR`, `RESET_SAVED_SSP`, `RESET_SAVED_USP`. -/
structure ResetDraws where
  gpr : Vector Word 8
  savedSSP : Word
  savedUSP : Word
  deriving DecidableEq, Repr

/-- `reset()` (R246, R140): memory, the output channel and the breakpoints are not changed (R41). -/
def State.applyReset (d : ResetDraws) (s : State) : State :=
  { s with
    regs := d.gpr
    savedSSP := d.savedSSP
    savedUSP := d.savedUSP
    pc := s.params.resetPC
    psr := Psr.unpack resetPSR
    mcr := resetMCR
    kbdReady := false
    kbdIE := false
    kbdData := 0
    dsrReady := true
    ddr := 0
    engine := .stopped }

/-- A block of an object file: an origin and its words (R56). The word count is the list's length. -/
structure Block where
  origin : Word
  words : List Word
  deriving DecidableEq, Repr

/-- The host error of a load (R56, R254). -/
inductive LoadError where
  /-- A block runs past 0xFFFF. -/
  | pastEnd (origin : Word) (count : Nat)
  deriving DecidableEq, Repr

/-- Whether a block lies inside the address space (R56). -/
def Block.fits (b : Block) : Bool := decide (b.origin.toNat + b.words.length ≤ 0x10000)

/-- The first block that runs past the end, if any. -/
def firstPastEnd (blocks : List Block) : Option Block := blocks.find? fun b => !b.fits

/-- The blocks written in order into the backing array; the last write wins (R56). -/
def writeBlocks (m : Memory) (blocks : List Block) : Memory :=
  blocks.foldl (fun m b => Memory.writeBlock m b.origin.toNat b.words) m

/-- `load(blocks)` (R56): the whole file or, if a block runs past the end, nothing (R254). -/
def State.load (blocks : List Block) (s : State) : Except LoadError State :=
  match firstPastEnd blocks with
  | some b => .error (.pastEnd b.origin b.words.length)
  | none => .ok { s with memory := writeBlocks s.memory blocks }

/-- `run()` (R137), from `Stopped`; the budget is whatever the host set, or none (R134). In `Halted` the state is
unchanged (R139). In `Running` and `SingleStep`, where the spec gives `run()` no effect, it is unchanged too: DESIGN
CHOICE (log entry 7). -/
def State.run (budget : Option Nat) (s : State) : State :=
  match s.engine with
  | .stopped => { s with engine := .running, budget := budget, stopRequest := false }
  | .running | .singleStep | .halted => s

/-- `step(n)` (R138), n ≥ 1, from `Stopped`. In `Halted` the state is unchanged (R139). In `Running` and `SingleStep`,
and with n = 0, where the spec gives `step(n)` no effect, it is unchanged too: DESIGN CHOICE (log entry 7). -/
def State.singleStep (n : Nat) (s : State) : State :=
  match s.engine with
  | .stopped => if n = 0 then s else { s with engine := .singleStep, budget := some n, stopRequest := false }
  | .running | .singleStep | .halted => s

/-- A stop or abort request (R141): it takes effect at the next boundary, so it matters only while steps run. -/
def State.requestStop (s : State) : State := if s.active then { s with stopRequest := true } else s

/-- An address put into a rising list without repeats (log entry 21). -/
def insertAddress (a : Word) : List Word → List Word
  | [] => [a]
  | b :: rest => if a < b then a :: b :: rest else if a = b then b :: rest else b :: insertAddress a rest

/-- `setBreakpoint(a)` (R143). -/
def State.setBreakpoint (a : Word) (s : State) : State := { s with breakpoints := insertAddress a s.breakpoints }

/-- `deliverChar(c)` (R145, R219): an unread character is replaced. -/
def State.deliverChar (c : Byte) (s : State) : State := { s with kbdData := c, kbdReady := true }

/-- Drain the output channel (R37): what it held, and the state with it empty. -/
def State.drainOutput (s : State) : List Byte × State := (s.output, { s with output := [] })

/-- `inspect` of an address (R146): a device register or a memory word, with no side effect. -/
def State.inspect (s : State) (a : Word) : Word := s.peek a

/-- The host's actions that change state, `load` with its blocks and `reset` with its draws (R136, R148). -/
inductive HostAction where
  | load (blocks : List Block)
  | reset (draws : ResetDraws)
  | run (budget : Option Nat)
  | singleStep (n : Nat)
  | requestStop
  | setBreakpoint (a : Word)
  | deliverChar (c : Byte)
  | drainOutput
  deriving DecidableEq, Repr

/-- One host action between steps (R148). A refused load leaves the state as it was (R254). -/
def State.act : HostAction → State → State
  | .load blocks, s =>
    match s.load blocks with
    | .ok t => t
    | .error _ => s
  | .reset d, s => s.applyReset d
  | .run budget, s => s.run budget
  | .singleStep n, s => s.singleStep n
  | .requestStop, s => s.requestStop
  | .setBreakpoint a, s => s.setBreakpoint a
  | .deliverChar c, s => s.deliverChar c
  | .drainOutput, s => s.drainOutput.2

/-- What happens next in a session: the host acts, or the engine takes a step (R263). -/
inductive Event where
  | host (a : HostAction)
  | step
  deriving DecidableEq, Repr

/-- A session: host actions placed between steps (R148, R263). -/
def session : List Event → State → Result
  | [], s => .next s
  | .host a :: rest, s => session rest (s.act a)
  | .step :: rest, s =>
    match Sys2Proof.Machine.step s with
    | .next t => session rest t
    | .fault f => .fault f
    | .refused r => .refused r

end Sys2Proof.Machine
end

