-- ==== Sys2Proof/Machine/Boot.lean ====
section
/-! DEFINITION. Power-on and bring-up (70_reset_and_hazards.md R249 to R254), and what the spec fixes of the OS image's
vector tables (60_exceptions.md R232). -/

namespace Sys2Proof.Machine

/-- `OS_IMAGE` (R6, R232): block 1 at 0x0000 and block 2 at 0x0200. Its words are the model's argument. -/
structure OsImage where
  block1 : List Word
  block2 : List Word
  deriving DecidableEq, Repr

/-- Block 1 as a block of an object file (R250). -/
def OsImage.tables (img : OsImage) : Block := { origin := trapTableBase, words := img.block1 }

/-- Block 2 as a block of an object file (R250). -/
def OsImage.code (img : OsImage) : Block := { origin := 0x0200, words := img.block2 }

/-- Power-on (R249): memory zero, no output, no breakpoints, then the reset values of R246. -/
def powerOn (p : Params) (d : ResetDraws) : State := { State.reset with params := p }.applyReset d

/-- Bring-up (R250), up to the host's `run` or `step(n)`: power-on, OS block 1, OS block 2, the user's blocks. -/
def bringUp (p : Params) (d : ResetDraws) (img : OsImage) (user : List Block) : Except LoadError State := do
  let s1 ← (powerOn p d).load [img.tables]
  let s2 ← s1.load [img.code]
  s2.load user

/-- The handler address an image's trap table gives a vector (R188). -/
def OsImage.trapHandler (img : OsImage) (v : BitVec 8) : Word := img.block1.getD v.toNat 0

/-- The handler address an image's interrupt table gives a vector (R202). -/
def OsImage.interruptHandler (img : OsImage) (v : BitVec 8) : Word := img.block1.getD (256 + v.toNat) 0

/-- The traps the OS image serves (R188). -/
def serviceTraps : List (BitVec 8) := [trapGETC, trapOUT, trapPUTS, trapIN, trapPUTSP, trapHALT]

/-- The vectors of the exceptions (R196). -/
def exceptionVectors : List (BitVec 8) :=
  [Exception.privilegeViolation.vector, Exception.illegalOpcode.vector, Exception.accessViolation.vector]

/-- Whether an address lies in block 2 (R232). -/
def OsImage.inCode (img : OsImage) (a : Word) : Bool :=
  decide (0x0200 ≤ a.toNat) && decide (a.toNat < 0x0200 + img.block2.length)

/-- What R232 fixes of an image's tables: block 1 has 512 words, every handler lies in block 2, every other trap
entry holds one address, `BAD_TRAP`, and every other interrupt entry one address, `BAD_INT`. -/
def OsImage.tablesConform (img : OsImage) (badTrap badInt : Word) : Bool :=
  decide (img.block1.length = 512) && img.block1.all img.inCode &&
    (List.range 256).all (fun i =>
      serviceTraps.contains (BitVec.ofNat 8 i) || img.trapHandler (BitVec.ofNat 8 i) == badTrap) &&
    (List.range 256).all (fun i =>
      exceptionVectors.contains (BitVec.ofNat 8 i) || img.interruptHandler (BitVec.ofNat 8 i) == badInt)

end Sys2Proof.Machine
end

