-- ==== Sys2Proof/Machine/OsContract.lean ====
section
/-! DEFINITION. The contract of the OS image (60_exceptions.md R232 to R241; 70_reset_and_hazards.md R253). It describes
software: no step depends on it, and a claim about a program that calls the OS takes what it needs of it as a hypothesis
(log entry 13). -/

namespace Sys2Proof.Machine

/-! Runs. -/

/-- `k` steps of the engine, with no host action between them. -/
def steps (k : Nat) (s : State) : Result := session (List.replicate k Event.step) s

/-- A state some number of steps away. -/
def Reaches (s t : State) : Prop := ∃ k, steps k s = .next t

/-- The fairness that R224 asks for under `DISPLAY_READY` = draw: READY is drawn as 1 again and again. -/
def DisplayFair : Prop := ∀ k, ∃ j, k ≤ j ∧ Config.displayReadyDraw j = true

/-! An image, and what its author chose. -/

/-- An OS image with the choices of its author that the source does not give (R233, R234, R239 to R241, UB12, UB13): each
is one fixed value for the image, whatever the state it is used in. -/
structure OsDescription where
  /-- The image's words. -/
  image : OsImage
  /-- The address of `BAD_TRAP`. -/
  badTrap : Word
  /-- The address of `BAD_INT`. -/
  badInt : Word
  /-- The words the OS writes, other than its stack: its variables, and what its start routine builds. -/
  scratch : List Word
  /-- How many words a service, with its frame, uses of the supervisor stack. -/
  stackRoom : Nat
  /-- The supervisor stack pointer that the start routine sets up. -/
  supervisorStack : Word
  /-- The user stack pointer that the start routine gives the user program. -/
  userStack : Word
  /-- The PSR that the start routine gives the user program. -/
  userPsr : Psr
  /-- IN's prompt. -/
  prompt : List Byte
  /-- HALT's banner. -/
  banner : List Byte
  /-- `BAD_TRAP`'s diagnostic. -/
  diagnostic : List Byte
  /-- The privilege-violation handler's message. -/
  privilegeMessage : List Byte
  /-- The illegal-opcode handler's message. -/
  illegalMessage : List Byte
  /-- The access-violation handler's message. -/
  accessMessage : List Byte
  deriving DecidableEq, Repr

/-- The message of an exception's handler. -/
def OsDescription.message (os : OsDescription) : Exception → List Byte
  | .privilegeViolation => os.privilegeMessage
  | .illegalOpcode => os.illegalMessage
  | .accessViolation => os.accessMessage

/-- Whether an address is one of the words a service may use below a supervisor stack pointer. -/
def OsDescription.inStack (os : OsDescription) (sp a : Word) : Bool :=
  decide (sp.toNat ≤ a.toNat + os.stackRoom) && decide (a.toNat < sp.toNat)

/-- Whether the OS may write the word: its scratch words, and its room on the supervisor stack. -/
def OsDescription.mayWrite (os : OsDescription) (sp a : Word) : Bool := os.scratch.contains a || os.inStack sp a

/-- The words of a block are in memory from an address up, but for the OS's scratch words, which may hold anything:
DESIGN CHOICE (log entry 13), since the spec does not say whether a service or a handler may rely on what the start
routine or block 2 left in the OS's variables. -/
def OsDescription.holds (os : OsDescription) (s : State) (origin : Nat) (words : List Word) : Prop :=
  ∀ i (h : i < words.length), BitVec.ofNat 16 (origin + i) ∉ os.scratch → s.memory.readAt (origin + i) = words[i]

/-- The image is in memory as bring-up left it, but for its scratch words (R250, R252). -/
def OsDescription.loaded (os : OsDescription) (s : State) : Prop :=
  os.holds s 0x0000 os.image.block1 ∧ os.holds s 0x0200 os.image.block2

/-- A supervisor stack pointer with the services' room of plain memory below it, above the image. -/
def OsDescription.stackOk (os : OsDescription) (sp : Word) : Prop :=
  0x0200 + os.image.block2.length + os.stackRoom ≤ sp.toNat ∧ sp.toNat ≤ 0xFE00

/-- Fairness is assumed where READY is a draw (R224). -/
def FairUnder (p : Params) : Prop := p.displayReady = .draw → DisplayFair

/-- A state in which the OS can be called: the engine runs with the clock on and with no budget, stop request or
breakpoint; no interrupt is enabled; the image is in memory; the supervisor stack has room. -/
structure OsReady (os : OsDescription) (p : Params) (s : State) : Prop where
  params : s.params = p
  fair : FairUnder p
  memory : s.memory.wf = true
  running : s.engine = .running
  budget : s.budget = none
  stopRequest : s.stopRequest = false
  breakpoints : s.breakpoints = []
  clock : s.mcr.getLsbD 15 = true
  noInterrupt : s.kbdIE = false
  image : os.loaded s
  stack : os.stackOk s.entryStack

/-- The next step runs `TRAP v`, in either mode. -/
structure AboutToTrap (os : OsDescription) (p : Params) (v : BitVec 8) (s : State) : Prop where
  ready : OsReady os p s
  fetches : fetchViolates s = false
  atTrap : (fetch s).1 = encode (.trap v)

/-! What a service does. -/

/-- The trap taken in `s` has returned: the frame pushed there has been popped (R189, R204). -/
def Returned (s t : State) : Prop := t.pc = s.pc + 1 ∧ t.psr = s.psr ∧ t.reg 6 = s.reg 6

/-- A service called in `s` returns by RTI in `t` (R235 to R238, R244): PC after the TRAP, the caller's PSR and stack,
every register but those listed, and only the OS's own words of memory written. -/
structure ReturnsIn (os : OsDescription) (p : Params) (changed : List Reg) (s t : State) : Prop where
  pc : t.pc = s.pc + 1
  psr : t.psr = s.psr
  regs : ∀ r, r ∉ changed → t.reg r = s.reg r
  stack : t.entryStack = s.entryStack
  memory : ∀ a, os.mayWrite s.entryStack a = false → t.memory.read a = s.memory.read a
  ready : OsReady os p t

/-- In the `k` steps from `u` the waiting character is read, which clears READY (R221), only when the output is
`shown`. -/
def ReadsAfter (shown : List Byte) (u : State) (k : Nat) : Prop :=
  ∀ j a b, j < k → steps j u = .next a → step a = .next b → a.kbdReady = true → b.kbdReady = false → a.output = shown

/-- From `u` on, where the character `c` is waiting, the service called in `s` reads it once the prompt is out, echoes
it, and returns it in R0 with READY clear (R235, R239). -/
def ReturnsChar (os : OsDescription) (p : Params) (s u : State) (c : Byte) (prompt echo : List Byte) : Prop :=
  ∃ k t, steps k u = .next t ∧ ReadsAfter (s.output ++ prompt) u k ∧ ReturnsIn os p [0] s t ∧ t.reg 0 = zext c ∧
    t.kbdReady = false ∧ t.output = s.output ++ prompt ++ echo

/-- A service that outputs a prompt, then waits for a character and reads it, and then echoes it by `echo` (R235,
R239). With a character waiting it returns it. With none it outputs the whole prompt, no more, and polls for ever, and
at whatever boundary the host delivers a character, it returns that one. -/
structure ReadsChar (os : OsDescription) (p : Params) (prompt : List Byte) (echo : Byte → List Byte)
    (s : State) : Prop where
  waiting : s.kbdReady = true → ReturnsChar os p s s s.kbdData prompt (echo s.kbdData)
  prompts : s.kbdReady = false → ∃ u, Reaches s u ∧ u.output = s.output ++ prompt
  polls : s.kbdReady = false → ∀ k u, steps k s = .next u →
    u.engine = .running ∧ ¬ Returned s u ∧ ∃ shown, shown <+: prompt ∧ u.output = s.output ++ shown
  delivered : s.kbdReady = false → ∀ k u c, steps k s = .next u →
    ReturnsChar os p s (u.deliverChar c) c prompt (echo c)

/-- In the `k` steps from `s` a character is output only after a DSR read since `s`, the last of which gave READY = 1
(R236). Under `DISPLAY_READY` = always READY is 1 whenever it is read, so there is nothing to wait for. -/
def WaitsForDisplay (s : State) (k : Nat) : Prop :=
  s.params.displayReady = .draw → ∀ j u v, j < k → steps j s = .next u → step u = .next v → v.output ≠ u.output →
    s.dsrDraws < u.dsrDraws ∧ u.dsrReady = true

/-- OUT (R236): once the display is ready R0 goes to DDR, which outputs its bits 7:0. -/
def OutputsChar (os : OsDescription) (p : Params) (s : State) : Prop :=
  ∃ k t, steps k s = .next t ∧ ReturnsIn os p [] s t ∧ t.ddr = s.reg 0 ∧
    t.output = s.output ++ [(s.reg 0).extractLsb' 0 8] ∧ WaitsForDisplay s k

/-- A service that outputs a text and returns with every register as it was (R237, R238). -/
def OutputsText (os : OsDescription) (p : Params) (s : State) (text : List Byte) : Prop :=
  ∃ t, Reaches s t ∧ ReturnsIn os p [] s t ∧ t.output = s.output ++ text

/-- A word that a string may use: plain memory that neither the entry nor the service overwrites. -/
def OsDescription.readable (os : OsDescription) (s : State) (a : Word) : Prop :=
  isDevice a = false ∧ os.mayWrite s.entryStack a = false

/-- A string of one character a word, in bits 7:0, up to the first word equal to 0 (R237). -/
def OsDescription.wordString (os : OsDescription) (s : State) : Word → List Byte → Prop
  | a, [] => os.readable s a ∧ s.memory.read a = 0
  | a, c :: cs =>
    os.readable s a ∧ s.memory.read a ≠ 0 ∧ (s.memory.read a).extractLsb' 0 8 = c ∧ os.wordString s (a + 1) cs

/-- A string packed two characters a word, bits 7:0 first, up to the first byte equal to 0 (R238). -/
def OsDescription.packedString (os : OsDescription) (s : State) : Word → List Byte → Prop
  | a, [] => os.readable s a ∧ (s.memory.read a).extractLsb' 0 8 = 0
  | a, [c] =>
    os.readable s a ∧ (s.memory.read a).extractLsb' 0 8 = c ∧ c ≠ 0 ∧ (s.memory.read a).extractLsb' 8 8 = 0
  | a, c :: d :: cs =>
    os.readable s a ∧ (s.memory.read a).extractLsb' 0 8 = c ∧ c ≠ 0 ∧ (s.memory.read a).extractLsb' 8 8 = d ∧ d ≠ 0 ∧
      os.packedString s (a + 1) cs

/-- The run from `s` outputs the text, and then a step clears MCR bit 15 and halts the engine (R133, R233, R234,
R240). -/
def HaltsPrinting (s : State) (text : List Byte) : Prop :=
  ∃ u t, Reaches s u ∧ u.engine = .running ∧ u.mcr.getLsbD 15 = true ∧ u.output = s.output ++ text ∧
    step u = .next t ∧ t.mcr.getLsbD 15 = false ∧ t.engine = .halted ∧ t.output = u.output

/-- A trap that prints, halts and does not return (R233, R240). -/
def TrapHalts (s : State) (text : List Byte) : Prop :=
  HaltsPrinting s text ∧ ∀ u, Reaches s u → ¬ Returned s u

/-- The trap services (R233, R235 to R240), each asked of a run in which the host does nothing but deliver the one
character that GETC or IN waits for (DESIGN CHOICE, log entry 13). -/
structure OsDescription.Serves (os : OsDescription) (p : Params) : Prop where
  getc : ∀ s, AboutToTrap os p trapGETC s → ReadsChar os p [] (fun _ => []) s
  out : ∀ s, AboutToTrap os p trapOUT s → OutputsChar os p s
  puts : ∀ s cs, AboutToTrap os p trapPUTS s → os.wordString s (s.reg 0) cs → OutputsText os p s cs
  inp : ∀ s, AboutToTrap os p trapIN s → ReadsChar os p os.prompt (fun c => [c]) s
  putsp : ∀ s cs, AboutToTrap os p trapPUTSP s → os.packedString s (s.reg 0) cs → OutputsText os p s cs
  halt : ∀ s, AboutToTrap os p trapHALT s → TrapHalts s os.banner
  badTrap : ∀ s v, v ∉ serviceTraps → AboutToTrap os p v s → TrapHalts s os.diagnostic

/-- The exception handlers print their message and halt (R234), from an exception taken in either mode, in a run that
the host does not disturb (DESIGN CHOICE, log entry 13). -/
def OsDescription.HandlesExceptions (os : OsDescription) (p : Params) : Prop :=
  ∀ s e, OsReady os p s → HaltsPrinting (exceptionEntry e s) (os.message e)

/-! The start routine. -/

/-- The first state at 0x3000 after the start routine (R241, R253): user mode with the image's PSR and user stack
pointer, the supervisor stack set up, the OS ready, and no word of memory written since `s` but the OS's own. -/
structure EntersUser (os : OsDescription) (p : Params) (s t : State) : Prop where
  pc : t.pc = 0x3000
  psr : t.psr = os.userPsr
  userStack : t.reg 6 = os.userStack
  supervisorStack : t.savedSSP = os.supervisorStack
  memory : ∀ a, os.mayWrite os.supervisorStack a = false → t.memory.read a = s.memory.read a
  ready : OsReady os p t

/-- The start routine (R241, R253): brought up with any draws and any user blocks that leave the image in place, and
run, the engine comes to its first fetch at 0x3000 as `EntersUser` says. DESIGN CHOICE (log entry 13): R253 does not say
whether the contract also binds where the host acts between `run` and 0x3000, or after a later `reset()` with memory as
left; it is asked here only of the undisturbed run that follows bring-up. -/
def OsDescription.Starts (os : OsDescription) (p : Params) : Prop :=
  ∀ d user s, bringUp p d os.image user = .ok s → os.loaded s → FairUnder p →
    ∃ k t, steps k (s.run none) = .next t ∧ EntersUser os p s t ∧
      ∀ j u, j < k → steps j (s.run none) = .next u → u.pc ≠ 0x3000

/-- What holds of the author's choices themselves: the tables are as R232 says; every text has a character (R233, R234,
R239, R240); the user program runs in user mode, from the user's own word at 0x3000 (R241); and the supervisor stack is
no memory of the user's (R241, R253). -/
structure OsDescription.ChoicesOk (os : OsDescription) (p : Params) : Prop where
  tables : os.image.tablesConform os.badTrap os.badInt = true
  prompt : os.prompt ≠ []
  banner : os.banner ≠ []
  diagnostic : os.diagnostic ≠ []
  message : ∀ e, os.message e ≠ []
  userMode : os.userPsr.mode = .user
  origin : 0x3000 ∉ os.scratch
  supervisorStack : ∀ a, os.inStack os.supervisorStack a = true → p.inUserWindow a = false

/-- A conforming OS image (R232 to R241, R253). -/
structure OsDescription.Conforms (os : OsDescription) (p : Params) : Prop where
  choices : os.ChoicesOk p
  starts : os.Starts p
  serves : os.Serves p
  exceptions : os.HandlesExceptions p

/-- The source's end-to-end property (R240): the image and the one-word user program `TRAP x25` at 0x3000, run to halt,
leave the banner at the end of the output and MCR bit 15 clear. Laws/OsContract.lean proves it of every conforming
image. -/
def OsDescription.EndToEnd (os : OsDescription) (p : Params) : Prop :=
  ∀ d s, bringUp p d os.image [⟨0x3000, [0xF025]⟩] = .ok s → os.loaded s → FairUnder p →
    ∃ t, Reaches (s.run none) t ∧ t.engine = .halted ∧ t.mcr.getLsbD 15 = false ∧ os.banner <:+ t.output

end Sys2Proof.Machine
end

