-- ==== Sys2Proof/Safety.lean ====
section
/-! DEFINITION. What a well-formed state is, what an instruction does in terms of the states around it, and what a user
program may not touch, in the terms claims use. The OS image's contract stands in Machine/OsContract.lean. -/

namespace Sys2Proof

/-- No device register lies in `USER_WINDOW`; it holds of the spec's window (R218). -/
def Params.shieldsDevices (p : Params) : Bool := Machine.deviceAddresses.all fun a => !p.inUserWindow a

end Sys2Proof

namespace Sys2Proof.Machine

/-! Well-formed states. -/

/-- A list of addresses in strictly rising order: the canonical form of a set (log entry 21). -/
def rising : List Word → Bool
  | [] => true
  | [_] => true
  | a :: b :: rest => decide (a < b) && rising (b :: rest)

/-- The engine's control state agrees with what put it there: `Halted` is entered only with MCR bit 15 clear and left
only by a reset, which sets it (R133, R139); `SingleStep` has steps left in its budget (R138). -/
def State.controlWf (s : State) : Bool :=
  match s.engine with
  | .halted => !s.mcr.getLsbD 15
  | .singleStep =>
    match s.budget with
    | some n => decide (0 < n)
    | none => false
  | .stopped | .running => true

/-- Under `DISPLAY_READY` = always, READY is 1 at all times (R34). -/
def State.displayWf (s : State) : Bool :=
  match s.params.displayReady with
  | .always => s.dsrReady
  | .draw => true

/-- The well-formed states: memory and breakpoints in canonical form, and the two facts above. -/
def State.wf (s : State) : Bool := s.memory.wf && rising s.breakpoints && s.controlWf && s.displayWf

/-! What an instruction does, in terms of the fields of the states before and after it. -/

/-- An instruction's word has a row of the opcode table: its bits are the row's where the mask has ones, it decodes to
the instruction under both values of `DECODE_FIXED_BITS`, and a word that differs from the row only in its other fixed
bits is illegal under strict decode (R81, R83). -/
structure HasRow (i : Instr) (pattern strictMask lenientMask : Word) : Prop where
  row : encode i &&& strictMask = pattern
  decodes : ∀ m, decode m (encode i) = i
  offRow : ∀ w : Word, w &&& lenientMask = pattern &&& lenientMask → w &&& strictMask ≠ pattern →
    decode .strict w = .illegal w

/-- From `s` to `t`: DR gets `v` and N, Z, P are set from it (R27); every other register, the mode, the priority level
and all other state are as before. -/
structure WritesResult (dr : Reg) (v : Word) (s t : State) : Prop where
  dest : t.reg dr = v
  others : ∀ r, r ≠ dr → t.reg r = s.reg r
  n : t.psr.n = v.getLsbD 15
  z : t.psr.z = decide (v = 0x0000)
  p : t.psr.p = (!v.getLsbD 15 && decide (v ≠ 0x0000))
  mode : t.psr.mode = s.psr.mode
  pl : t.psr.pl = s.psr.pl
  rest : t = { s with regs := t.regs, psr := t.psr }

/-- From `s` to `t`: DR gets `v`, and nothing else changes. -/
structure WritesRegister (dr : Reg) (v : Word) (s t : State) : Prop where
  dest : t.reg dr = v
  others : ∀ r, r ≠ dr → t.reg r = s.reg r
  rest : t = { s with regs := t.regs }

/-- A read of one word at `a` that gives `v` and leaves `t` (R52, R220, R221, R224, R226, R228). -/
structure ReadsWord (a : Word) (s : State) (v : Word) (t : State) : Prop where
  plain : a ∉ [0xFE00#16, 0xFE02#16, 0xFE04#16, 0xFE06#16, 0xFFFE#16] → v = s.memory.read a ∧ t = s
  kbsr : a = 0xFE00 → v.getLsbD 15 = s.kbdReady ∧ v.getLsbD 14 = s.kbdIE ∧ v &&& 0x3FFF = 0 ∧ t = s
  kbdr : a = 0xFE02 → v = s.kbdData.setWidth 16 ∧ t = { s with kbdReady := false }
  dsrAlways : a = 0xFE04 → s.params.displayReady = .always → v = 0x8000 ∧ t = s
  dsrDraw : a = 0xFE04 → s.params.displayReady = .draw →
    v &&& 0x7FFF = 0 ∧ t = { s with dsrReady := v.getLsbD 15, dsrDraws := s.dsrDraws + 1 }
  ddr : a = 0xFE06 → v = s.ddr ∧ t = s
  mcr : a = 0xFFFE → v = s.mcr ∧ t = s

/-- A write of one word `v` at `a` (R52, R222, R223, R225, R227, R228). -/
structure StoresWord (a v : Word) (s t : State) : Prop where
  plain : a ∉ [0xFE00#16, 0xFE02#16, 0xFE04#16, 0xFE06#16, 0xFFFE#16] →
    t.memory.read a = v ∧ (∀ x, x ≠ a → t.memory.read x = s.memory.read x) ∧ t = { s with memory := t.memory }
  kbsr : a = 0xFE00 → t = { s with kbdIE := v.getLsbD 14 }
  kbdr : a = 0xFE02 → t = s
  dsr : a = 0xFE04 → t = s
  ddr : a = 0xFE06 → t = { s with ddr := v, output := s.output ++ [v.extractLsb' 0 8] }
  mcr : a = 0xFFFE → t = { s with mcr := v }

/-- The entry of a trap, exception or interrupt through a vector table entry (R187, R203, R213): on the supervisor
stack the old PSR is pushed and then PC; supervisor mode; PL as given; the user stack pointer saved when the mode
changes; PC from the table. Every other register, the flags and SavedSSP are as before, and memory and devices change
only by the two pushes. -/
structure EntersThrough (tableEntry : Word) (pl : BitVec 3) (s t : State) : Prop where
  pushes : ∃ s1 s2, StoresWord (s.entryStack - 1) s.psr.pack s s1 ∧ StoresWord (s.entryStack - 2) s.pc s1 s2 ∧
    t.pc = s2.memory.read tableEntry ∧
    t = { s2 with regs := t.regs, pc := t.pc, psr := t.psr, savedUSP := t.savedUSP }
  sp : t.reg 6 = s.entryStack - 2
  others : ∀ r, r ≠ 6 → t.reg r = s.reg r
  psr : t.psr = { s.psr with mode := .supervisor, pl := pl }
  savedUSP : t.savedUSP = if s.psr.mode = .user then s.reg 6 else s.savedUSP

/-- A synchronous exception with vector `vec` (R196, R202, R203): the entry, with PL unchanged. -/
def TakesException (vec : Word) (s t : State) : Prop := EntersThrough (0x0100 + vec) s.psr.pl s t

/-- The load of LD, LDI and LDR at `ea` (R160 to R162): the check, then the read and the result. -/
structure LoadsFrom (dr : Reg) (ea : Word) (s : State) (answer : Result) : Prop where
  allowed : s.violates ea = false →
    ∃ v s1 t, ReadsWord ea s v s1 ∧ answer = .next t ∧ WritesResult dr v s1 t
  violation : s.violates ea = true → ∃ t, answer = .next t ∧ TakesException 0x02 s t

/-- The store of ST, STI and STR at `ea` (R165 to R167): the check, then the write. -/
structure StoresTo (sr : Reg) (ea : Word) (s : State) (answer : Result) : Prop where
  allowed : s.violates ea = false → ∃ t, answer = .next t ∧ StoresWord ea (s.reg sr) s t
  violation : s.violates ea = true → ∃ t, answer = .next t ∧ TakesException 0x02 s t

/-- The step from `s` fetches and executes `i` (R127, R131). -/
def StepExecutes (s : State) (i : Instr) : Prop :=
  s.active = true ∧ fetchViolates s = false ∧ decode s.params.decodeFixedBits (fetch s).1 = i

/-! Isolation. -/

/-- What a program in user mode may not touch: the device registers, the output channel, the saved supervisor stack
pointer, the priority level, and every memory word outside `USER_WINDOW` (R57, R215, R218). -/
structure SameProtected (s t : State) : Prop where
  mcr : t.mcr = s.mcr
  kbdReady : t.kbdReady = s.kbdReady
  kbdIE : t.kbdIE = s.kbdIE
  kbdData : t.kbdData = s.kbdData
  dsrReady : t.dsrReady = s.dsrReady
  dsrDraws : t.dsrDraws = s.dsrDraws
  ddr : t.ddr = s.ddr
  output : t.output = s.output
  savedSSP : t.savedSSP = s.savedSSP
  savedUSP : t.savedUSP = s.savedUSP
  pl : t.psr.pl = s.psr.pl
  memory : ∀ a, s.params.inUserWindow a = false → t.memory.read a = s.memory.read a

/-- Two states that show a user program the same: its registers, PC, PSR and the memory in `USER_WINDOW`. They may
differ in the rest of memory, the device registers, the output channel and the saved stack pointers (R57, R218). -/
structure SameToUser (s t : State) : Prop where
  regs : t.regs = s.regs
  pc : t.pc = s.pc
  psr : t.psr = s.psr
  params : t.params = s.params
  memory : ∀ a, s.params.inUserWindow a = true → t.memory.read a = s.memory.read a

/-! The encoder unit. -/

/-- Whether a slot takes an operand (R103). -/
def Encoder.takesOperand : Encoder.Slot → Bool
  | .fixed _ _ _ => false
  | .regS _ _ _ => true
  | .immS _ _ _ _ _ => true
  | .offS _ _ _ _ => true
  | .absS _ _ _ => true

/-- The operand a slot takes is a token of its kind: a register for `RegS`, a number for `ImmS`, a number or a label for
`OffS` and `AbsS` (R101 (a), R103). -/
def Encoder.slotServed (tokens : List Encoder.Token) : Encoder.Slot → Prop
  | .fixed _ _ _ => True
  | .regS _ _ k => ∃ r, tokens[k]? = some (.reg r)
  | .immS _ _ k _ _ => ∃ v, tokens[k]? = some (.num v)
  | .offS _ _ k _ => (∃ v, tokens[k]? = some (.num v)) ∨ ∃ x, tokens[k]? = some (.lbl x)
  | .absS _ _ k => (∃ v, tokens[k]? = some (.num v)) ∨ ∃ x, tokens[k]? = some (.lbl x)

/-- What R101 asks of a line, said of the pattern's slots: (a) as many operands as the slots take, each of the kind its
slot takes; (b) every register token holds 0 to 7. -/
structure Encoder.MeetsPreconditions (p : Encoder.Pattern) (tokens : List Encoder.Token) : Prop where
  count : tokens.length = p.slots.countP Encoder.takesOperand
  kinds : ∀ sl ∈ p.slots, Encoder.slotServed tokens sl
  registers : ∀ r, Encoder.Token.reg r ∈ tokens → r ≤ 7

end Sys2Proof.Machine
end

