-- ==== Sys2Proof/Certificates/Slice0/Obligations.lean ====
section
/-! DEFINITION. The statements for the provers, in the spec's order of files. -/

open Sys2Proof Sys2Proof.Machine

/-! Encoding. -/

/-- 30_encoding.md R72 to R78: words written out from the formats decode to the instructions they stand for. -/
def Obligations.SampleWordsDecode : Prop :=
  decode .strict 0b0001_001_010_000_011#16 = .addReg 1 2 3 ∧
  decode .strict 0b0001_001_010_1_10000#16 = .addImm 1 2 (-16) ∧
  decode .strict 0b0101_110_011_000_001#16 = .andReg 6 3 1 ∧
  decode .strict 0b0101_111_101_1_11111#16 = .andImm 7 5 (-1) ∧
  decode .strict 0b1001_010_011_111111#16 = .not 2 3 ∧
  decode .strict 0b0000_010_111111101#16 = .br false true false (-3) ∧
  decode .strict 0b0010_000_100000000#16 = .ld 0 (-256) ∧
  decode .strict 0b1010_101_011111111#16 = .ldi 5 255 ∧
  decode .strict 0b0110_011_110_011111#16 = .ldr 3 6 31 ∧
  decode .strict 0b1110_100_000000001#16 = .lea 4 1 ∧
  decode .strict 0b0011_110_111111110#16 = .st 6 (-2) ∧
  decode .strict 0b1011_001_010000000#16 = .sti 1 128 ∧
  decode .strict 0b0111_001_010_100000#16 = .str 1 2 (-32) ∧
  decode .strict 0b1100_000_110_000000#16 = .jmp 6 ∧
  decode .strict 0b01001_10000000000#16 = .jsr (-1024) ∧
  decode .strict 0b0100_000_111_000000#16 = .jsrr 7 ∧
  decode .strict 0b1111_0000_00100101#16 = .trap 0x25 ∧
  decode .strict 0b1000_000000000000#16 = .rti ∧
  decode .strict 0xD000 = .illegal 0xD000

/-- 40_encoder.md R117: decoding the word of a well-formed instruction gives the instruction back, and for an alias
the core instruction whose words it names, under either value of `DECODE_FIXED_BITS`. -/
def Obligations.DecodeOfEncodeIsTheInstruction : Prop :=
  ∀ (m : FixedBits) (i : Instr), i.wellFormed m = true → decode m (encode i) = i.core

/-- Under strict decode the other direction holds too: no bit of a word is lost, and the decoder answers only
well-formed core instructions, under both values. For legal words that is 30_encoding.md R81 and R83; for illegal words
it rests on the model's choice that the illegal instruction carries its word (log entry 11). -/
def Obligations.EncodeOfDecodeIsTheWord : Prop :=
  (∀ w : Word, encode (decode .strict w) = w) ∧
  ∀ (m : FixedBits) (w : Word), (decode m w).wellFormed m = true ∧ (decode m w).core = decode m w

/-- 30_encoding.md R82, R83: the illegal words are those with opcode 1101 and, under strict decode, those with a
wrong fixed bit; no others. -/
def Obligations.IllegalWordsAreExactlyTheseWords : Prop :=
  (∀ w : Word, decode .lenient w = .illegal w ↔ w.extractLsb' 12 4 = 0xD#4) ∧
  ∀ w : Word, decode .strict w = .illegal w ↔
    w.extractLsb' 12 4 = 0xD#4 ∨
    ((w.extractLsb' 12 4 = 0x1#4 ∨ w.extractLsb' 12 4 = 0x5#4) ∧ w.getLsbD 5 = false ∧ w.extractLsb' 3 2 ≠ 0b00#2) ∨
    (w.extractLsb' 12 4 = 0x9#4 ∧ w.extractLsb' 0 6 ≠ 0b111111#6) ∨
    (w.extractLsb' 12 4 = 0xC#4 ∧ (w.extractLsb' 9 3 ≠ 0b000#3 ∨ w.extractLsb' 0 6 ≠ 0#6)) ∨
    (w.extractLsb' 12 4 = 0x4#4 ∧ w.getLsbD 11 = false ∧ (w.extractLsb' 9 2 ≠ 0b00#2 ∨ w.extractLsb' 0 6 ≠ 0#6)) ∨
    (w.extractLsb' 12 4 = 0x8#4 ∧ w.extractLsb' 0 12 ≠ 0#12) ∨
    (w.extractLsb' 12 4 = 0xF#4 ∧ w.extractLsb' 8 4 ≠ 0b0000#4)

/-! The encoder unit. -/

/-- 40_encoder.md R117, with the ranges of R113: for every pattern but FILL, operands in range encode to a word that
decodes to the pattern's instruction with the same registers and the same integer, and an operand out of range is
rejected with the field's name and range. -/
def Obligations.EncoderRoundTrip : Prop :=
  ∀ (m : FixedBits) (p : Encoder.Pattern) (tokens : List Encoder.Token) (lineAddr : Word) (labels : Encoder.LabelMap),
    p ≠ .fill → Encoder.preconditions p tokens = true →
    (p.numericField = none → ∃ w i, Encoder.encodeLine p tokens lineAddr labels = .word w ∧
      p.instr tokens 0 = some i ∧ decode m w = i.core) ∧
    ∀ (name : Encoder.FieldName) (v : Int), p.numericField = some name →
      Encoder.lineInt tokens lineAddr labels = some v →
      (name.legal.1 ≤ v → v ≤ name.legal.2 → ∃ w i, Encoder.encodeLine p tokens lineAddr labels = .word w ∧
        p.instr tokens v = some i ∧ decode m w = i.core ∧ Encoder.numericOperand (decode m w) = some v) ∧
      (v < name.legal.1 ∨ name.legal.2 < v →
        Encoder.encodeLine p tokens lineAddr labels = .error (.outOfRange name name.legal.1 name.legal.2))

/-- 40_encoder.md R107: a label operand encodes as the literal `L(name) - (A + 1)`, in mathematical integers. -/
def Obligations.LabelEncodesAsItsDisplacement : Prop :=
  ∀ (p : Encoder.Pattern) (before : List Encoder.Token) (x : String) (target lineAddr : Word)
    (labels : Encoder.LabelMap),
    p.numericField = some .pcOffset9 ∨ p.numericField = some .pcOffset11 →
    labels.lookup x = some target →
    Encoder.encodeLine p (before ++ [.lbl x]) lineAddr labels =
      Encoder.encodeLine p (before ++ [.num ((target.toNat : Int) - ((lineAddr.toNat : Int) + 1))]) lineAddr labels

/-- 40_encoder.md R108: a label with no entry in the label map makes the encoding fail, and the error names it. -/
def Obligations.UnresolvedLabelFails : Prop :=
  ∀ (p : Encoder.Pattern) (tokens : List Encoder.Token) (x : String) (lineAddr : Word) (labels : Encoder.LabelMap),
    Encoder.preconditions p tokens = true → Encoder.Token.lbl x ∈ tokens → labels.lookup x = none →
    Encoder.encodeLine p tokens lineAddr labels = .error (.unresolvedLabel x)

/-- 40_encoder.md R118: `.FILL` takes -32768 to 65535 modulo 2^16, or a label's absolute address. -/
def Obligations.FillEncodesValuesAndAddresses : Prop :=
  ∀ (lineAddr : Word) (labels : Encoder.LabelMap),
    (∀ v : Int, -32768 ≤ v → v ≤ 65535 →
      Encoder.encodeLine .fill [.num v] lineAddr labels = .word (BitVec.ofNat 16 (v % 65536).toNat)) ∧
    (∀ v : Int, v < -32768 ∨ 65535 < v →
      Encoder.encodeLine .fill [.num v] lineAddr labels = .error (.outOfRange .fill16 (-32768) 65535)) ∧
    (∀ x target, labels.lookup x = some target →
      Encoder.encodeLine .fill [.lbl x] lineAddr labels = .word target) ∧
    ∀ x, labels.lookup x = none → Encoder.encodeLine .fill [.lbl x] lineAddr labels = .error (.unresolvedLabel x)

/-- 40_encoder.md R101: a line that meets (a) and (b) gets a word or an error and is never refused; any other line is
refused, with no word and no error. -/
def Obligations.EncoderRefusesExactlyBrokenPreconditions : Prop :=
  ∀ (p : Encoder.Pattern) (tokens : List Encoder.Token) (lineAddr : Word) (labels : Encoder.LabelMap),
    (Encoder.MeetsPreconditions p tokens →
      (∃ w, Encoder.encodeLine p tokens lineAddr labels = .word w) ∨
        ∃ e, Encoder.encodeLine p tokens lineAddr labels = .error e) ∧
    (¬ Encoder.MeetsPreconditions p tokens → Encoder.encodeLine p tokens lineAddr labels = .refused)

/-! State, memory and devices. -/

/-- 10_state.md R41 (the values the spec gives), R47: the state after power-on. The zeros of R0 to R7, SavedSSP and
SavedUSP are the model's choice (log entries 1 and 2) and are not stated. -/
def Obligations.ResetStateIsAsGiven : Prop :=
  State.reset.pc = 0x0200 ∧ State.reset.psr.pack = 0x0002 ∧ State.reset.mcr = 0x8000 ∧
  State.reset.peek 0xFE00 = 0x0000 ∧ State.reset.peek 0xFE02 = 0x0000 ∧ State.reset.peek 0xFE04 = 0x8000 ∧
  State.reset.peek 0xFE06 = 0x0000 ∧ State.reset.engine = .stopped ∧ State.reset.output = [] ∧
  State.reset.breakpoints = [] ∧ ∀ a, State.reset.memory.read a = 0x0000

/-- 10_state.md R25, 45_system.md R189: PSR's bits in the packed word, the reserved bits 0, and what a popped word
loads is that word with the reserved bits cleared. -/
def Obligations.PsrLayout : Prop :=
  (∀ q : Psr, q.pack.getLsbD 15 = decide (q.mode = .user) ∧ q.pack.extractLsb' 11 4 = 0#4 ∧
    q.pack.extractLsb' 8 3 = q.pl ∧ q.pack.extractLsb' 3 5 = 0#5 ∧
    q.pack.getLsbD 2 = q.n ∧ q.pack.getLsbD 1 = q.z ∧ q.pack.getLsbD 0 = q.p) ∧
  ∀ w : Word, (Psr.unpack w).pack = w &&& 0x8707

/-- 10_state.md R27: SetCC writes all three flags, so exactly one of them is 1 afterwards, and it is the one that the
signed reading of the result names. -/
def Obligations.SetCCSetsExactlyOneFlag : Prop :=
  ∀ (q : Psr) (v : Word),
    ((q.setCC v).n = true ↔ v.toInt < 0) ∧ ((q.setCC v).z = true ↔ v.toInt = 0) ∧
    ((q.setCC v).p = true ↔ 0 < v.toInt) ∧ (q.setCC v).mode = q.mode ∧ (q.setCC v).pl = q.pl

/-- 20_memory.md R46: the backing array holds what was last written; every other word is as before; and equal
contents are equal data, so the canonical form is one. -/
def Obligations.MemoryReadsLastWrite : Prop :=
  (∀ (m : Memory) (a v x : Word), m.wf = true →
    (m.write a v).wf = true ∧ (m.write a v).read x = if x = a then v else m.read x) ∧
  ∀ m n : Memory, m.wf = true → n.wf = true → (∀ a, m.read a = n.read a) → m = n

/-- 20_memory.md R52, with the device reads of 60_exceptions.md R220, R221, R224, R226 and R228: what every read
gives and leaves. -/
def Obligations.MemReadRoutesEveryAddress : Prop :=
  ∀ (a : Word) (s : State), ReadsWord a s (memRead a s).1 (memRead a s).2

/-- 20_memory.md R52, with the device writes of 60_exceptions.md R222, R223, R225, R227 and R228: what every write
leaves. -/
def Obligations.MemWriteRoutesEveryAddress : Prop :=
  ∀ (a v : Word) (s : State), s.memory.wf = true → StoresWord a v s (memWrite a v s)

/-- 20_memory.md R53: under `DISPLAY_READY` = always the read of KBDR is the only read with a side effect, and reading
anything else twice gives the same value. A second read of KBDR gives the same character, since with READY = 0 it gives
the last one delivered (60_exceptions.md R221). -/
def Obligations.OnlyKbdrReadsHaveSideEffects : Prop :=
  ∀ (a : Word) (s : State), s.params.displayReady = .always →
    (a ≠ 0xFE02 → (memRead a s).2 = s) ∧ (memRead 0xFE02 s).2 = { s with kbdReady := false } ∧
    (memRead a (memRead a s).2).1 = (memRead a s).1

/-- 20_memory.md R57: the user-mode check, and the spec's window. -/
def Obligations.UserModeCheck : Prop :=
  (∀ (s : State) (a : Word), s.violates a = true ↔ s.psr.mode = .user ∧ s.params.inUserWindow a = false) ∧
  ∀ a : Word, Params.spec.inUserWindow a = true ↔ 0x3000 ≤ a.toNat ∧ a.toNat ≤ 0xFDFF

/-! Operate instructions. -/

/-- 42_operate.md R150, R151: ADD. -/
def Obligations.AddWritesTheSum : Prop :=
  (∀ (dr sr1 sr2 : Reg), HasRow (.addReg dr sr1 sr2) 0x1000 0xF038 0xF020) ∧
  (∀ (dr sr1 : Reg) (imm5 : BitVec 5), HasRow (.addImm dr sr1 imm5) 0x1020 0xF020 0xF020) ∧
  (∀ (dr sr1 sr2 : Reg) (s : State), ∃ t, exec (.addReg dr sr1 sr2) s = .next t ∧
    WritesResult dr (s.reg sr1 + s.reg sr2) s t) ∧
  ∀ (dr sr1 : Reg) (imm5 : BitVec 5) (s : State), ∃ t, exec (.addImm dr sr1 imm5) s = .next t ∧
    WritesResult dr (s.reg sr1 + imm5.signExtend 16) s t

/-- 42_operate.md R152, R153: AND. -/
def Obligations.AndWritesTheConjunction : Prop :=
  (∀ (dr sr1 sr2 : Reg), HasRow (.andReg dr sr1 sr2) 0x5000 0xF038 0xF020) ∧
  (∀ (dr sr1 : Reg) (imm5 : BitVec 5), HasRow (.andImm dr sr1 imm5) 0x5020 0xF020 0xF020) ∧
  (∀ (dr sr1 sr2 : Reg) (s : State), ∃ t, exec (.andReg dr sr1 sr2) s = .next t ∧
    WritesResult dr (s.reg sr1 &&& s.reg sr2) s t) ∧
  ∀ (dr sr1 : Reg) (imm5 : BitVec 5) (s : State), ∃ t, exec (.andImm dr sr1 imm5) s = .next t ∧
    WritesResult dr (s.reg sr1 &&& imm5.signExtend 16) s t

/-- 42_operate.md R154: NOT. -/
def Obligations.NotWritesTheComplement : Prop :=
  (∀ (dr sr : Reg), HasRow (.not dr sr) 0x903F 0xF03F 0xF000) ∧
  ∀ (dr sr : Reg) (s : State), ∃ t, exec (.not dr sr) s = .next t ∧ WritesResult dr (~~~ s.reg sr) s t

/-! Data movement. PC is the incremented PC of the state the instruction executes in. -/

/-- 43_data_movement.md R160: LD. -/
def Obligations.LdLoadsPcRelative : Prop :=
  (∀ (dr : Reg) (off : BitVec 9), HasRow (.ld dr off) 0x2000 0xF000 0xF000) ∧
  ∀ (dr : Reg) (off : BitVec 9) (s : State), s.memory.wf = true →
    LoadsFrom dr (s.pc + off.signExtend 16) s (exec (.ld dr off) s)

/-- 43_data_movement.md R161, R169: LDI, the checks in order, the pointer read done when the second check raises. -/
def Obligations.LdiLoadsThroughPointer : Prop :=
  (∀ (dr : Reg) (off : BitVec 9), HasRow (.ldi dr off) 0xA000 0xF000 0xF000) ∧
  ∀ (dr : Reg) (off : BitVec 9) (s : State), s.memory.wf = true →
    (s.violates (s.pc + off.signExtend 16) = true →
      ∃ t, exec (.ldi dr off) s = .next t ∧ TakesException 0x02 s t) ∧
    (s.violates (s.pc + off.signExtend 16) = false →
      ∃ ea s1, ReadsWord (s.pc + off.signExtend 16) s ea s1 ∧ LoadsFrom dr ea s1 (exec (.ldi dr off) s))

/-- 43_data_movement.md R162: LDR. -/
def Obligations.LdrLoadsBasePlusOffset : Prop :=
  (∀ (dr baseR : Reg) (off : BitVec 6), HasRow (.ldr dr baseR off) 0x6000 0xF000 0xF000) ∧
  ∀ (dr baseR : Reg) (off : BitVec 6) (s : State), s.memory.wf = true →
    LoadsFrom dr (s.reg baseR + off.signExtend 16) s (exec (.ldr dr baseR off) s)

/-- 43_data_movement.md R163: LEA makes no access and never raises; the flags follow `LEA_SETS_CC`. -/
def Obligations.LeaWritesTheAddress : Prop :=
  (∀ (dr : Reg) (off : BitVec 9), HasRow (.lea dr off) 0xE000 0xF000 0xF000) ∧
  ∀ (dr : Reg) (off : BitVec 9) (s : State), ∃ t, exec (.lea dr off) s = .next t ∧
    (s.params.leaSetsCC = false → WritesRegister dr (s.pc + off.signExtend 16) s t) ∧
    (s.params.leaSetsCC = true → WritesResult dr (s.pc + off.signExtend 16) s t)

/-- 43_data_movement.md R165: ST. -/
def Obligations.StStoresPcRelative : Prop :=
  (∀ (sr : Reg) (off : BitVec 9), HasRow (.st sr off) 0x3000 0xF000 0xF000) ∧
  ∀ (sr : Reg) (off : BitVec 9) (s : State), s.memory.wf = true →
    StoresTo sr (s.pc + off.signExtend 16) s (exec (.st sr off) s)

/-- 43_data_movement.md R166, R169: STI. -/
def Obligations.StiStoresThroughPointer : Prop :=
  (∀ (sr : Reg) (off : BitVec 9), HasRow (.sti sr off) 0xB000 0xF000 0xF000) ∧
  ∀ (sr : Reg) (off : BitVec 9) (s : State), s.memory.wf = true →
    (s.violates (s.pc + off.signExtend 16) = true →
      ∃ t, exec (.sti sr off) s = .next t ∧ TakesException 0x02 s t) ∧
    (s.violates (s.pc + off.signExtend 16) = false →
      ∃ ea s1, ReadsWord (s.pc + off.signExtend 16) s ea s1 ∧ StoresTo sr ea s1 (exec (.sti sr off) s))

/-- 43_data_movement.md R167: STR. -/
def Obligations.StrStoresBasePlusOffset : Prop :=
  (∀ (sr baseR : Reg) (off : BitVec 6), HasRow (.str sr baseR off) 0x7000 0xF000 0xF000) ∧
  ∀ (sr baseR : Reg) (off : BitVec 6) (s : State), s.memory.wf = true →
    StoresTo sr (s.reg baseR + off.signExtend 16) s (exec (.str sr baseR off) s)

/-- 20_memory.md R63: a store by the current instruction to the address of the next one is what the next step fetches:
by ST with offset 0, by STI through any pointer it may read, by STR. -/
def Obligations.StoreIsSeenByTheNextFetch : Prop :=
  ∀ (sr : Reg) (s : State), s.memory.wf = true → s.violates s.pc = false →
    s.pc ∉ [0xFE00#16, 0xFE02#16, 0xFE04#16, 0xFE06#16, 0xFFFE#16] →
    (∃ t, exec (.st sr 0) s = .next t ∧ t.pc = s.pc ∧ (fetch t).1 = s.reg sr) ∧
    (∀ off : BitVec 9, s.violates (s.pc + off.signExtend 16) = false →
      (memRead (s.pc + off.signExtend 16) s).1 = s.pc →
      ∃ t, exec (.sti sr off) s = .next t ∧ t.pc = s.pc ∧ (fetch t).1 = s.reg sr) ∧
    ∀ (baseR : Reg) (off : BitVec 6), s.reg baseR + off.signExtend 16 = s.pc →
      ∃ t, exec (.str sr baseR off) s = .next t ∧ t.pc = s.pc ∧ (fetch t).1 = s.reg sr

/-! Control transfer. -/

/-- 44_control.md R177, R178: BR, every mask. -/
def Obligations.BrBranchesOnTheFlags : Prop :=
  (∀ (n z p : Bool) (off : BitVec 9), HasRow (.br n z p off) 0x0000 0xF000 0xF000) ∧
  ∀ (n z p : Bool) (off : BitVec 9) (s : State),
    ((n = true ∧ s.psr.n = true) ∨ (z = true ∧ s.psr.z = true) ∨ (p = true ∧ s.psr.p = true) →
      exec (.br n z p off) s = .next { s with pc := s.pc + off.signExtend 16 }) ∧
    (¬((n = true ∧ s.psr.n = true) ∨ (z = true ∧ s.psr.z = true) ∨ (p = true ∧ s.psr.p = true)) →
      exec (.br n z p off) s = .next s)

/-- 30_encoding.md R87: the suffixed branches, by their masks. -/
def Obligations.SuffixedBranchesTestTheirFlags : Prop :=
  ∀ (off : BitVec 9) (s : State),
    exec (.brn off) s = .next (if s.psr.n then { s with pc := s.pc + off.signExtend 16 } else s) ∧
    exec (.brz off) s = .next (if s.psr.z then { s with pc := s.pc + off.signExtend 16 } else s) ∧
    exec (.brp off) s = .next (if s.psr.p then { s with pc := s.pc + off.signExtend 16 } else s) ∧
    exec (.brnz off) s = .next (if s.psr.n || s.psr.z then { s with pc := s.pc + off.signExtend 16 } else s) ∧
    exec (.brnp off) s = .next (if s.psr.n || s.psr.p then { s with pc := s.pc + off.signExtend 16 } else s) ∧
    exec (.brzp off) s = .next (if s.psr.z || s.psr.p then { s with pc := s.pc + off.signExtend 16 } else s) ∧
    exec (.brnzp off) s =
      .next (if s.psr.n || s.psr.z || s.psr.p then { s with pc := s.pc + off.signExtend 16 } else s)

/-- 44_control.md R179, R180: JMP, and RET as `JMP R7`. -/
def Obligations.JmpAndRetJumpThroughARegister : Prop :=
  (∀ baseR : Reg, HasRow (.jmp baseR) 0xC000 0xFE3F 0xF000) ∧ encode .ret = 0xC1C0 ∧
  (∀ m, decode m 0xC1C0 = .jmp 7) ∧
  (∀ (baseR : Reg) (s : State), exec (.jmp baseR) s = .next { s with pc := s.reg baseR }) ∧
  ∀ s : State, exec .ret s = .next { s with pc := s.reg 7 }

/-- 44_control.md R181, R182: JSR and JSRR link in R7; the base is read before the link is written. -/
def Obligations.JsrAndJsrrLinkAndJump : Prop :=
  (∀ off : BitVec 11, HasRow (.jsr off) 0x4800 0xF800 0xF800) ∧
  (∀ baseR : Reg, HasRow (.jsrr baseR) 0x4000 0xFE3F 0xF800) ∧
  (∀ (off : BitVec 11) (s : State), ∃ t, exec (.jsr off) s = .next t ∧
    WritesRegister 7 s.pc { s with pc := s.pc + off.signExtend 16 } t) ∧
  ∀ (baseR : Reg) (s : State), ∃ t, exec (.jsrr baseR) s = .next t ∧
    WritesRegister 7 s.pc { s with pc := s.reg baseR } t

/-! System instructions. -/

/-- 45_system.md R187: TRAP, in both modes. -/
def Obligations.TrapEntersThroughItsVector : Prop :=
  (∀ v : BitVec 8, HasRow (.trap v) 0xF000 0xFF00 0xF000) ∧
  ∀ (v : BitVec 8) (s : State), s.memory.wf = true →
    ∃ t, exec (.trap v) s = .next t ∧ EntersThrough (v.setWidth 16) s.psr.pl s t

/-- 30_encoding.md R88: each trap alias is its TRAP. -/
def Obligations.TrapAliasesEnterTheirServices : Prop :=
  ∀ p ∈ [(Instr.getc, 0x20#16), (Instr.out, 0x21#16), (Instr.puts, 0x22#16), (Instr.inp, 0x23#16),
      (Instr.putsp, 0x24#16), (Instr.halt, 0x25#16)],
    encode p.1 = 0xF000 ||| p.2 ∧
    ∀ s : State, s.memory.wf = true → ∃ t, exec p.1 s = .next t ∧ EntersThrough p.2 s.psr.pl s t

/-- 45_system.md R189: RTI in supervisor mode pops PC, then PSR, and restores the stack pointer of the mode. -/
def Obligations.RtiPopsPcAndPsr : Prop :=
  HasRow .rti 0x8000 0xFFFF 0xF000 ∧
  ∀ s : State, s.psr.mode = .supervisor →
    ∃ pc s1 w s2 t, ReadsWord (s.reg 6) s pc s1 ∧ ReadsWord (s.reg 6 + 1) s1 w s2 ∧ exec .rti s = .next t ∧
      t.pc = pc ∧ t.psr.pack = w &&& 0x8707 ∧ (∀ r, r ≠ 6 → t.reg r = s.reg r) ∧
      (t.psr.mode = .user → t.savedSSP = s.reg 6 + 2 ∧ t.reg 6 = s.savedUSP) ∧
      (t.psr.mode = .supervisor → t.savedSSP = s.savedSSP ∧ t.reg 6 = s.reg 6 + 2) ∧
      t = { s2 with regs := t.regs, pc := t.pc, psr := t.psr, savedSSP := t.savedSSP }

/-- 45_system.md R190: RTI in user mode raises the privilege violation and pops nothing. -/
def Obligations.RtiInUserModeIsAPrivilegeViolation : Prop :=
  ∀ s : State, s.psr.mode = .user → s.memory.wf = true →
    ∃ t, exec .rti s = .next t ∧ TakesException 0x00 s t

/-- 45_system.md R192: an illegal word raises IllegalOpcode in both modes. -/
def Obligations.IllegalWordTakesIllegalOpcode : Prop :=
  ∀ (w : Word) (s : State), s.memory.wf = true →
    ∃ t, exec (.illegal w) s = .next t ∧ TakesException 0x01 s t

/-- 60_exceptions.md R203, R213: the exception entry, for every cause, and the interrupt entry, which differs from it
only in that it raises PL. -/
def Obligations.ExceptionAndInterruptEntry : Prop :=
  ∀ s : State, s.memory.wf = true →
    (∀ e : Machine.Exception, EntersThrough (0x0100 + e.vector.setWidth 16) s.psr.pl s (exceptionEntry e s)) ∧
    EntersThrough (0x0100 + s.params.kbdIntVector.setWidth 16) s.params.kbdIntPriority s (interruptEntry s)

/-- 60_exceptions.md R205, R244, 45_system.md R189: RTI after a TRAP restores the caller: whatever the service computed,
if it leaves R6 and the pushed frame as the entry made them, the caller's PC, PSR and stack pointers are back. -/
def Obligations.RtiUndoesTrapEntry : Prop :=
  ∀ (v : BitVec 8) (s t h : State), s.memory.wf = true →
    isDevice (s.entryStack - 1) = false → isDevice (s.entryStack - 2) = false →
    exec (.trap v) s = .next t →
    h.psr.mode = .supervisor → h.reg 6 = t.reg 6 → h.savedUSP = t.savedUSP → h.savedSSP = t.savedSSP →
    h.memory.read (s.entryStack - 1) = t.memory.read (s.entryStack - 1) →
    h.memory.read (s.entryStack - 2) = t.memory.read (s.entryStack - 2) →
    ∃ u, exec .rti h = .next u ∧ u.pc = s.pc ∧ u.psr = s.psr ∧ u.reg 6 = s.reg 6 ∧ u.savedSSP = s.savedSSP ∧
      (∀ r, r ≠ 6 → u.reg r = h.reg r) ∧ u.memory = h.memory ∧
      u = { h with regs := u.regs, pc := u.pc, psr := u.psr, savedSSP := u.savedSSP }

/-! Rules over all instructions. -/

/-- 41_execution_cycle.md R142, 60_exceptions.md R198: no instruction and no step ever stops the machine with a fault
or a refusal; from `Stopped` and `Halted` the step answers the same state, the model's reading (log entry 5). -/
def Obligations.EveryInstructionAndStepCompletes : Prop :=
  (∀ (i : Instr) (s : State), ∃ t, exec i s = .next t) ∧ ∀ s : State, ∃ t, step s = .next t

/-- 10_state.md R24: which instructions set the flags, and that no other but RTI changes them. A flag-setting
instruction leaves exactly one flag set, or, where the check of an address it accesses fails, all three as they
were. -/
def Obligations.OnlyFlagSettersAndRtiChangeFlags : Prop :=
  ∀ (i : Instr) (s t : State), exec i s = .next t →
    match i with
    | .addReg _ _ _ | .addImm _ _ _ | .andReg _ _ _ | .andImm _ _ _ | .not _ _ =>
      [t.psr.n, t.psr.z, t.psr.p].count true = 1
    | .ld _ off =>
      if s.violates (s.pc + off.signExtend 16) then t.psr.n = s.psr.n ∧ t.psr.z = s.psr.z ∧ t.psr.p = s.psr.p
      else [t.psr.n, t.psr.z, t.psr.p].count true = 1
    | .ldi _ off =>
      if s.violates (s.pc + off.signExtend 16) || s.violates (memRead (s.pc + off.signExtend 16) s).1
      then t.psr.n = s.psr.n ∧ t.psr.z = s.psr.z ∧ t.psr.p = s.psr.p
      else [t.psr.n, t.psr.z, t.psr.p].count true = 1
    | .ldr _ baseR off =>
      if s.violates (s.reg baseR + off.signExtend 16) then t.psr.n = s.psr.n ∧ t.psr.z = s.psr.z ∧ t.psr.p = s.psr.p
      else [t.psr.n, t.psr.z, t.psr.p].count true = 1
    | .lea _ _ =>
      if s.params.leaSetsCC then [t.psr.n, t.psr.z, t.psr.p].count true = 1 else t.psr = s.psr
    | .rti => True
    | _ => t.psr.n = s.psr.n ∧ t.psr.z = s.psr.z ∧ t.psr.p = s.psr.p

/-- 10_state.md R30: PL changes only at interrupt entry, which sets it to the interrupt's priority, and at RTI; of an
instruction, of the boundary, and of a whole step. -/
def Obligations.PriorityChangesOnlyAtInterruptAndRti : Prop :=
  (∀ (i : Instr) (s t : State), i ≠ .rti → exec i s = .next t → t.psr.pl = s.psr.pl) ∧
  (∀ s : State, (boundary s).psr.pl = s.psr.pl ∨
    (interruptPending s = true ∧ (boundary s).psr.pl = s.params.kbdIntPriority)) ∧
  ∀ s t : State, step s = .next t →
    t.psr.pl = s.psr.pl ∨ StepExecutes s .rti ∨
      ∃ u, fetchAndExecute s = .next u ∧ interruptPending u = true ∧ t.psr.pl = s.params.kbdIntPriority

/-- 60_exceptions.md R215: user mode is entered only by RTI, and left only to the address a vector table entry holds,
with the user stack pointer saved and the supervisor stack in use. Of a step: what leaves user mode is the instruction or
its fetch (then R6 is saved as the step began with it, and an interrupt may push its own frame too), or else the interrupt
(then R6 is saved as the instruction left it). -/
def Obligations.ModeChangesOnlyThroughEntryAndRti : Prop :=
  (∀ (i : Instr) (s t : State), exec i s = .next t →
    (s.psr.mode = .supervisor → t.psr.mode = .user → i = .rti) ∧
    (s.psr.mode = .user → t.psr.mode = .supervisor →
      ∃ e : Word, e.toNat < 0x0200 ∧ t.pc = t.memory.read e ∧ t.savedUSP = s.reg 6 ∧ t.reg 6 = s.savedSSP - 2)) ∧
  ∀ s t : State, step s = .next t →
    (s.psr.mode = .supervisor → t.psr.mode = .user → StepExecutes s .rti) ∧
    (s.psr.mode = .user → t.psr.mode = .supervisor →
      (∃ e : Word, e.toNat < 0x0200 ∧ t.pc = t.memory.read e) ∧
      ∃ u, fetchAndExecute s = .next u ∧
        (u.psr.mode = .supervisor → t.savedUSP = s.reg 6 ∧
          (t.reg 6 = s.savedSSP - 2 ∨ (interruptPending u = true ∧ t.reg 6 = s.savedSSP - 4))) ∧
        (u.psr.mode = .user → interruptPending u = true ∧ t.savedUSP = u.reg 6 ∧ t.reg 6 = s.savedSSP - 2))

/-- 10_state.md R22, R28: SavedSSP changes only when RTI goes to user mode, and SavedUSP only when an entry leaves user
mode; each then takes R6's value. Of an instruction, and of a whole step, where the interrupt at the boundary may be
that entry. -/
def Obligations.SavedStackPointersChangeOnlyBySwaps : Prop :=
  (∀ (i : Instr) (s t : State), exec i s = .next t →
    (t.savedSSP = s.savedSSP ∨ (i = .rti ∧ t.psr.mode = .user ∧ t.savedSSP = s.reg 6 + 2)) ∧
    (t.savedUSP = s.savedUSP ∨ (s.psr.mode = .user ∧ t.psr.mode = .supervisor ∧ t.savedUSP = s.reg 6))) ∧
  ∀ s t : State, step s = .next t →
    (t.savedSSP = s.savedSSP ∨ (StepExecutes s .rti ∧ s.psr.mode = .supervisor ∧ t.savedSSP = s.reg 6 + 2)) ∧
    (t.savedUSP = s.savedUSP ∨
      (t.psr.mode = .supervisor ∧
        ((s.psr.mode = .user ∧ t.savedUSP = s.reg 6) ∨
          ∃ u, fetchAndExecute s = .next u ∧ u.psr.mode = .user ∧ interruptPending u = true ∧ t.savedUSP = u.reg 6)))

/-- 60_exceptions.md R218, R215: a step that starts and ends in user mode touches no device register, no output, no
saved stack pointer, no priority level and no memory outside `USER_WINDOW`. -/
def Obligations.UserStepsTouchNothingProtected : Prop :=
  ∀ s t : State, s.memory.wf = true → s.params.shieldsDevices = true → s.psr.mode = .user →
    step s = .next t → t.psr.mode = .user → SameProtected s t

/-- 20_memory.md R57, 60_exceptions.md R218: what a user-mode instruction does while it stays in user mode depends on
nothing outside its registers, PC, PSR and `USER_WINDOW`: two states alike in these stay alike. -/
def Obligations.UserInstructionsSeeNothingProtected : Prop :=
  ∀ (i : Instr) (s1 s2 t1 : State), s1.memory.wf = true → s2.memory.wf = true → s1.params.shieldsDevices = true →
    SameToUser s1 s2 → s1.psr.mode = .user → exec i s1 = .next t1 → t1.psr.mode = .user →
    ∃ t2, exec i s2 = .next t2 ∧ SameToUser t1 t2

/-! The step. -/

/-- 41_execution_cycle.md R127 to R129: when the fetch is allowed and the word at PC decodes to `i`, the step is
`Execute(i)` at the state whose PC is incremented, then the boundary. -/
def Obligations.StepRunsTheDecodedInstruction : Prop :=
  ∀ (s : State) (i : Instr) (w : Word) (s1 : State),
    s.engine = .running ∨ s.engine = .singleStep → s.violates s.pc = false →
    memRead s.pc s = (w, s1) → decode s.params.decodeFixedBits w = i →
    step s = atBoundary (exec i { s1 with pc := s1.pc + 1 })

/-- 41_execution_cycle.md R128: a user-mode fetch outside `USER_WINDOW` is not performed; PC is incremented and ACV is
entered, so the saved PC is the faulting address plus 1. -/
def Obligations.FetchOutsideWindowTakesAcv : Prop :=
  ∀ s : State, s.engine = .running ∨ s.engine = .singleStep → s.violates s.pc = true → s.memory.wf = true →
    ∃ t, TakesException 0x02 { s with pc := s.pc + 1 } t ∧ step s = .next (boundary t)

/-- 41_execution_cycle.md R133: MCR bit 15 clear at the end of a step halts, and no interrupt is taken. -/
def Obligations.ClearedClockHaltsAtTheBoundary : Prop :=
  ∀ s : State, s.mcr.getLsbD 15 = false → boundary s = { s with engine := .halted }

/-- 60_exceptions.md R211, R212, R214: at a boundary with the clock on, the keyboard interrupt is taken exactly when
READY and IE are set and its priority is above PL; once taken, it does not pend until PL falls. The order of the checks
is 41_execution_cycle.md R127's; that an entry whose own push clears MCR bit 15 does not halt at this boundary is the
model's reading of it (log entry 18). -/
def Obligations.InterruptIsTakenExactlyWhenPending : Prop :=
  ∀ s : State, s.mcr.getLsbD 15 = true →
    (s.kbdReady = true ∧ s.kbdIE = true ∧ s.psr.pl.toNat < s.params.kbdIntPriority.toNat →
      boundary s = stopCheck (interruptEntry s) ∧ interruptPending (boundary s) = false) ∧
    (¬(s.kbdReady = true ∧ s.kbdIE = true ∧ s.psr.pl.toNat < s.params.kbdIntPriority.toNat) →
      boundary s = stopCheck s)

/-- 41_execution_cycle.md R134: the stop check changes no architectural state and stops in the three cases; the
breakpoint case in `Running` only. How the budget and the request are held, and that a stop check uses the request up,
is the model's choice (log entry 7). -/
def Obligations.StopCheckStopsInThreeCases : Prop :=
  ∀ s : State,
    stopCheck s = { s with
      engine := (stopCheck s).engine, budget := s.budget.map (· - 1), stopRequest := false } ∧
    ((stopCheck s).engine = .stopped ↔
      s.engine = .stopped ∨ (s.engine = .running ∧ s.pc ∈ s.breakpoints) ∨
        (∃ n, s.budget = some n ∧ n ≤ 1) ∨ s.stopRequest = true) ∧
    ((stopCheck s).engine ≠ .stopped → (stopCheck s).engine = s.engine)

/-- 41_execution_cycle.md R135, R139: in `Stopped` and `Halted` no step runs, and `run` and `step(n)` leave a halted
machine unchanged. That `step` then answers the same state is the model's reading (log entry 5). -/
def Obligations.NoStepRunsWhileStoppedOrHalted : Prop :=
  (∀ s : State, s.engine = .stopped ∨ s.engine = .halted → step s = .next s) ∧
  ∀ (s : State) (budget : Option Nat) (n : Nat), s.engine = .halted → s.run budget = s ∧ s.singleStep n = s

/-- Every step keeps the state well-formed: memory and breakpoints canonical, a halted machine's clock off, a single
step's budget not empty, an always-ready display ready. The invariant is the model's; the budget field and the
breakpoints' rising order are its choices (log entries 7 and 21). -/
def Obligations.EveryStepKeepsWellFormedness : Prop :=
  ∀ s t : State, s.wf = true → step s = .next t → t.wf = true

/-- The reset state is well-formed. -/
def Obligations.ResetStateIsWellFormed : Prop := State.reset.wf = true

/-- 60_exceptions.md R229, 10_state.md R38: a step changes neither the parameters, the breakpoints nor the keyboard's
character, and the output channel only grows. That the parameters are held beside the state, unchanged, is the model's
choice (log entry 3). -/
def Obligations.StepsLeaveHostOwnedStateAlone : Prop :=
  ∀ s t : State, step s = .next t →
    t.params = s.params ∧ t.breakpoints = s.breakpoints ∧ t.kbdData = s.kbdData ∧
    (t.kbdReady = true → s.kbdReady = true) ∧ s.output <+: t.output

/-! The host's actions. -/

/-- Every host action keeps the state well-formed and the parameters as they are (the invariant is the model's; log
entries 3, 7 and 21). -/
def Obligations.HostActionsKeepWellFormedness : Prop :=
  ∀ (a : HostAction) (s : State), s.wf = true → (s.act a).wf = true ∧ (s.act a).params = s.params

/-- 70_reset_and_hazards.md R246, R248: reset, from any state and for every draw. -/
def Obligations.ResetAppliesTheGivenValues : Prop :=
  ∀ (d e : ResetDraws) (s : State),
    (s.applyReset d).regs = d.gpr ∧ (s.applyReset d).savedSSP = d.savedSSP ∧ (s.applyReset d).savedUSP = d.savedUSP ∧
    (s.applyReset d).pc = s.params.resetPC ∧ (s.applyReset d).psr.pack = 0x0002 ∧ (s.applyReset d).mcr = 0x8000 ∧
    (s.applyReset d).peek 0xFE00 = 0x0000 ∧ (s.applyReset d).peek 0xFE02 = 0x0000 ∧
    (s.applyReset d).peek 0xFE04 = 0x8000 ∧ (s.applyReset d).peek 0xFE06 = 0x0000 ∧
    (s.applyReset d).engine = .stopped ∧ (s.applyReset d).memory = s.memory ∧ (s.applyReset d).output = s.output ∧
    (s.applyReset d).breakpoints = s.breakpoints ∧ (s.applyReset e).applyReset d = s.applyReset d

/-- 20_memory.md R56, 70_reset_and_hazards.md R252, R254: a load writes its blocks in order into the backing array and
nothing else, the last write wins, and a file with a block past 0xFFFF is refused whole. -/
def Obligations.LoadWritesBlocksInOrder : Prop :=
  ∀ (blocks : List Block) (b : Block) (s : State), s.memory.wf = true →
    (s.load [] = .ok s) ∧
    (∀ t, s.load (blocks ++ [b]) = .ok t → ∃ t0, s.load blocks = .ok t0 ∧ t = { s with memory := t.memory } ∧
      ∀ a : Word, t.memory.read a =
        if h : b.origin.toNat ≤ a.toNat ∧ a.toNat < b.origin.toNat + b.words.length
        then b.words[a.toNat - b.origin.toNat] else t0.memory.read a) ∧
    ((∃ c ∈ blocks, 0x10000 < c.origin.toNat + c.words.length) ↔ ∃ e, s.load blocks = .error e)

/-- 60_exceptions.md R219, 10_state.md R37, 41_execution_cycle.md R137, R138, R141, R143, R146: what the other host
actions do. `inspect` shows what a read would give, and has no side effect, since it gives no state. How the budget and
the stop request are held, that the breakpoint set is a list, and that `inspect` of DSR under the draw policy may differ
from a read are the model's choices (log entries 7, 21 and 9). -/
def Obligations.HostControlActions : Prop :=
  ∀ (s : State) (c : Byte) (budget : Option Nat) (n : Nat),
    s.deliverChar c = { s with kbdData := c, kbdReady := true } ∧
    s.drainOutput = (s.output, { s with output := [] }) ∧
    (s.engine = .stopped → s.run budget = { s with engine := .running, budget := budget, stopRequest := false }) ∧
    (s.engine = .stopped → 1 ≤ n →
      s.singleStep n = { s with engine := .singleStep, budget := some n, stopRequest := false }) ∧
    (s.engine = .running ∨ s.engine = .singleStep → s.requestStop = { s with stopRequest := true }) ∧
    (∀ a : Word, s.setBreakpoint a = { s with breakpoints := (s.setBreakpoint a).breakpoints } ∧
      ∀ x : Word, x ∈ (s.setBreakpoint a).breakpoints ↔ x = a ∨ x ∈ s.breakpoints) ∧
    ∀ a : Word, s.params.displayReady = .always ∨ a ≠ 0xFE04 → s.inspect a = (memRead a s).1

/-- 70_reset_and_hazards.md R249 to R251: after bring-up the machine is as power-on and reset leave it, and memory
holds the user's blocks over the OS image over zeros. -/
def Obligations.BringUpLoadsTheImageThenTheUser : Prop :=
  ∀ (p : Params) (d : ResetDraws) (img : OsImage) (s : State), bringUp p d img [] = .ok s →
    s.params = p ∧ s.pc = p.resetPC ∧ s.psr.pack = 0x0002 ∧ s.engine = .stopped ∧ s.mcr = 0x8000 ∧
    s.regs = d.gpr ∧ s.savedSSP = d.savedSSP ∧ s.savedUSP = d.savedUSP ∧ s.peek 0xFE00 = 0x0000 ∧
    s.peek 0xFE02 = 0x0000 ∧ s.peek 0xFE04 = 0x8000 ∧ s.peek 0xFE06 = 0x0000 ∧ s.output = [] ∧ s.breakpoints = [] ∧
    (∀ user, bringUp p d img user = s.load user) ∧
    ∀ a : Word, s.memory.read a =
      if h : 0x0200 ≤ a.toNat ∧ a.toNat < 0x0200 + img.block2.length then img.block2[a.toNat - 0x0200]
      else if h : a.toNat < img.block1.length then img.block1[a.toNat]
      else 0x0000
end

