-- ==== Sys2Proof/Laws/Decode.lean ====
section
/-! SUPPORT. The fields of each format, and when a word has a row of the opcode table. -/

namespace Sys2Proof

/-- The fields of format RRR, as bit strings. -/
theorem bits_RRR (op : BitVec 4) (dr sr1 sr2 : BitVec 3) :
    (op ++ dr ++ sr1 ++ 0b000#3 ++ sr2).extractLsb' 12 4 = op ∧
    (op ++ dr ++ sr1 ++ 0b000#3 ++ sr2).extractLsb' 9 3 = dr ∧
    (op ++ dr ++ sr1 ++ 0b000#3 ++ sr2).extractLsb' 6 3 = sr1 ∧
    (op ++ dr ++ sr1 ++ 0b000#3 ++ sr2).extractLsb' 0 3 = sr2 ∧
    (op ++ dr ++ sr1 ++ 0b000#3 ++ sr2).extractLsb' 3 2 = 0#2 ∧
    (op ++ dr ++ sr1 ++ 0b000#3 ++ sr2).getLsbD 5 = false := by
  refine ⟨?_, ?_, ?_, ?_, ?_, ?_⟩ <;>
    (repeat (first
      | rw [BitVec.extractLsb'_append_eq_of_le (by decide)]
      | rw [BitVec.extractLsb'_append_eq_of_add_le (by decide)]
      | rw [BitVec.getLsbD_append])) <;> simp

/-- The fields of format RRR. -/
theorem formatRRR_fields (op : BitVec 4) (dr sr1 sr2 : Reg) :
    field (formatRRR op dr sr1 sr2) 12 4 = op ∧
    regField (formatRRR op dr sr1 sr2) 9 = dr ∧
    regField (formatRRR op dr sr1 sr2) 6 = sr1 ∧
    regField (formatRRR op dr sr1 sr2) 0 = sr2 ∧
    field (formatRRR op dr sr1 sr2) 3 2 = 0#2 ∧
    bitField (formatRRR op dr sr1 sr2) 5 = false := by
  obtain ⟨h0, h1, h2, h3, h4, h5⟩ := bits_RRR op dr.bits sr1.bits sr2.bits
  exact ⟨h0, congrArg BitVec.toFin h1, congrArg BitVec.toFin h2, congrArg BitVec.toFin h3, h4, h5⟩

/-- The fields of format RRI, as bit strings. -/
theorem bits_RRI (op : BitVec 4) (dr sr1 : BitVec 3) (imm5 : BitVec 5) :
    (op ++ dr ++ sr1 ++ 0b1#1 ++ imm5).extractLsb' 12 4 = op ∧
    (op ++ dr ++ sr1 ++ 0b1#1 ++ imm5).extractLsb' 9 3 = dr ∧
    (op ++ dr ++ sr1 ++ 0b1#1 ++ imm5).extractLsb' 6 3 = sr1 ∧
    (op ++ dr ++ sr1 ++ 0b1#1 ++ imm5).extractLsb' 0 5 = imm5 ∧
    (op ++ dr ++ sr1 ++ 0b1#1 ++ imm5).getLsbD 5 = true := by
  refine ⟨?_, ?_, ?_, ?_, ?_⟩ <;>
    (repeat (first
      | rw [BitVec.extractLsb'_append_eq_of_le (by decide)]
      | rw [BitVec.extractLsb'_append_eq_of_add_le (by decide)]
      | rw [BitVec.getLsbD_append])) <;> simp

/-- The fields of format RRI. -/
theorem formatRRI_fields (op : BitVec 4) (dr sr1 : Reg) (imm5 : BitVec 5) :
    field (formatRRI op dr sr1 imm5) 12 4 = op ∧
    regField (formatRRI op dr sr1 imm5) 9 = dr ∧
    regField (formatRRI op dr sr1 imm5) 6 = sr1 ∧
    field (formatRRI op dr sr1 imm5) 0 5 = imm5 ∧
    bitField (formatRRI op dr sr1 imm5) 5 = true := by
  obtain ⟨h0, h1, h2, h3, h4⟩ := bits_RRI op dr.bits sr1.bits imm5
  exact ⟨h0, congrArg BitVec.toFin h1, congrArg BitVec.toFin h2, h3, h4⟩

/-- The fields of format NOT, as bit strings. -/
theorem bits_NOT (dr sr : BitVec 3) :
    (0b1001#4 ++ dr ++ sr ++ 0b111111#6).extractLsb' 12 4 = 9#4 ∧
    (0b1001#4 ++ dr ++ sr ++ 0b111111#6).extractLsb' 9 3 = dr ∧
    (0b1001#4 ++ dr ++ sr ++ 0b111111#6).extractLsb' 6 3 = sr ∧
    (0b1001#4 ++ dr ++ sr ++ 0b111111#6).extractLsb' 0 6 = 0b111111#6 := by
  refine ⟨?_, ?_, ?_, ?_⟩ <;>
    (repeat (first
      | rw [BitVec.extractLsb'_append_eq_of_le (by decide)]
      | rw [BitVec.extractLsb'_append_eq_of_add_le (by decide)]
      | rw [BitVec.getLsbD_append])) <;> simp

/-- The fields of format NOT. -/
theorem formatNOT_fields (dr sr : Reg) :
    field (formatNOT dr sr) 12 4 = 9#4 ∧
    regField (formatNOT dr sr) 9 = dr ∧
    regField (formatNOT dr sr) 6 = sr ∧
    field (formatNOT dr sr) 0 6 = 0b111111#6 := by
  obtain ⟨h0, h1, h2, h3⟩ := bits_NOT dr.bits sr.bits
  exact ⟨h0, congrArg BitVec.toFin h1, congrArg BitVec.toFin h2, h3⟩

/-- The fields of format RPC9, as bit strings. -/
theorem bits_RPC9 (op : BitVec 4) (r : BitVec 3) (off : BitVec 9) :
    (op ++ r ++ off).extractLsb' 12 4 = op ∧
    (op ++ r ++ off).extractLsb' 9 3 = r ∧
    (op ++ r ++ off).extractLsb' 0 9 = off := by
  refine ⟨?_, ?_, ?_⟩ <;>
    (repeat (first
      | rw [BitVec.extractLsb'_append_eq_of_le (by decide)]
      | rw [BitVec.extractLsb'_append_eq_of_add_le (by decide)]
      | rw [BitVec.getLsbD_append])) <;> simp

/-- The fields of format RPC9. -/
theorem formatRPC9_fields (op : BitVec 4) (r : Reg) (off : BitVec 9) :
    field (formatRPC9 op r off) 12 4 = op ∧
    regField (formatRPC9 op r off) 9 = r ∧
    field (formatRPC9 op r off) 0 9 = off := by
  obtain ⟨h0, h1, h2⟩ := bits_RPC9 op r.bits off
  exact ⟨h0, congrArg BitVec.toFin h1, h2⟩

/-- The fields of format RRO6, as bit strings. -/
theorem bits_RRO6 (op : BitVec 4) (r baseR : BitVec 3) (off : BitVec 6) :
    (op ++ r ++ baseR ++ off).extractLsb' 12 4 = op ∧
    (op ++ r ++ baseR ++ off).extractLsb' 9 3 = r ∧
    (op ++ r ++ baseR ++ off).extractLsb' 6 3 = baseR ∧
    (op ++ r ++ baseR ++ off).extractLsb' 0 6 = off := by
  refine ⟨?_, ?_, ?_, ?_⟩ <;>
    (repeat (first
      | rw [BitVec.extractLsb'_append_eq_of_le (by decide)]
      | rw [BitVec.extractLsb'_append_eq_of_add_le (by decide)]
      | rw [BitVec.getLsbD_append])) <;> simp

/-- The fields of format RRO6. -/
theorem formatRRO6_fields (op : BitVec 4) (r baseR : Reg) (off : BitVec 6) :
    field (formatRRO6 op r baseR off) 12 4 = op ∧
    regField (formatRRO6 op r baseR off) 9 = r ∧
    regField (formatRRO6 op r baseR off) 6 = baseR ∧
    field (formatRRO6 op r baseR off) 0 6 = off := by
  obtain ⟨h0, h1, h2, h3⟩ := bits_RRO6 op r.bits baseR.bits off
  exact ⟨h0, congrArg BitVec.toFin h1, congrArg BitVec.toFin h2, h3⟩

/-- The fields of format Base, as bit strings. -/
theorem bits_Base (op : BitVec 4) (baseR : BitVec 3) :
    (op ++ 0b000#3 ++ baseR ++ 0b000000#6).extractLsb' 12 4 = op ∧
    (op ++ 0b000#3 ++ baseR ++ 0b000000#6).extractLsb' 6 3 = baseR ∧
    (op ++ 0b000#3 ++ baseR ++ 0b000000#6).extractLsb' 0 6 = 0#6 ∧
    (op ++ 0b000#3 ++ baseR ++ 0b000000#6).extractLsb' 9 3 = 0#3 ∧
    (op ++ 0b000#3 ++ baseR ++ 0b000000#6).extractLsb' 9 2 = 0#2 ∧
    (op ++ 0b000#3 ++ baseR ++ 0b000000#6).getLsbD 11 = false := by
  refine ⟨?_, ?_, ?_, ?_, ?_, ?_⟩ <;>
    (repeat (first
      | rw [BitVec.extractLsb'_append_eq_of_le (by decide)]
      | rw [BitVec.extractLsb'_append_eq_of_add_le (by decide)]
      | rw [BitVec.getLsbD_append])) <;> simp

/-- The fields of format Base. -/
theorem formatBase_fields (op : BitVec 4) (baseR : Reg) :
    field (formatBase op baseR) 12 4 = op ∧
    regField (formatBase op baseR) 6 = baseR ∧
    field (formatBase op baseR) 0 6 = 0#6 ∧
    field (formatBase op baseR) 9 3 = 0#3 ∧
    field (formatBase op baseR) 9 2 = 0#2 ∧
    bitField (formatBase op baseR) 11 = false := by
  obtain ⟨h0, h1, h2, h3, h4, h5⟩ := bits_Base op baseR.bits
  exact ⟨h0, congrArg BitVec.toFin h1, h2, h3, h4, h5⟩

/-- The fields of format JSR, as bit strings. -/
theorem bits_JSR (off : BitVec 11) :
    (0b0100#4 ++ 0b1#1 ++ off).extractLsb' 12 4 = 4#4 ∧
    (0b0100#4 ++ 0b1#1 ++ off).extractLsb' 0 11 = off ∧
    (0b0100#4 ++ 0b1#1 ++ off).getLsbD 11 = true := by
  refine ⟨?_, ?_, ?_⟩ <;>
    (repeat (first
      | rw [BitVec.extractLsb'_append_eq_of_le (by decide)]
      | rw [BitVec.extractLsb'_append_eq_of_add_le (by decide)]
      | rw [BitVec.getLsbD_append])) <;> simp

/-- The fields of format JSR. -/
theorem formatJSR_fields (off : BitVec 11) :
    field (formatJSR off) 12 4 = 4#4 ∧
    field (formatJSR off) 0 11 = off ∧
    bitField (formatJSR off) 11 = true := by
  obtain ⟨h0, h1, h2⟩ := bits_JSR off
  exact ⟨h0, h1, h2⟩

/-- The fields of format TRAP, as bit strings. -/
theorem bits_TRAP (v : BitVec 8) :
    (0b1111#4 ++ 0b0000#4 ++ v).extractLsb' 12 4 = 15#4 ∧
    (0b1111#4 ++ 0b0000#4 ++ v).extractLsb' 0 8 = v ∧
    (0b1111#4 ++ 0b0000#4 ++ v).extractLsb' 8 4 = 0#4 := by
  refine ⟨?_, ?_, ?_⟩ <;>
    (repeat (first
      | rw [BitVec.extractLsb'_append_eq_of_le (by decide)]
      | rw [BitVec.extractLsb'_append_eq_of_add_le (by decide)]
      | rw [BitVec.getLsbD_append])) <;> simp

/-- The fields of format TRAP. -/
theorem formatTRAP_fields (v : BitVec 8) :
    field (formatTRAP v) 12 4 = 15#4 ∧
    field (formatTRAP v) 0 8 = v ∧
    field (formatTRAP v) 8 4 = 0#4 := by
  obtain ⟨h0, h1, h2⟩ := bits_TRAP v
  exact ⟨h0, h1, h2⟩

/-- The fields of format BR, as bit strings. -/
theorem bits_BR (n z p : BitVec 1) (off : BitVec 9) :
    (0b0000#4 ++ n ++ z ++ p ++ off).extractLsb' 12 4 = 0#4 ∧
    (0b0000#4 ++ n ++ z ++ p ++ off).extractLsb' 0 9 = off ∧
    (0b0000#4 ++ n ++ z ++ p ++ off).getLsbD 11 = n.getLsbD 0 ∧
    (0b0000#4 ++ n ++ z ++ p ++ off).getLsbD 10 = z.getLsbD 0 ∧
    (0b0000#4 ++ n ++ z ++ p ++ off).getLsbD 9 = p.getLsbD 0 := by
  refine ⟨?_, ?_, ?_, ?_, ?_⟩ <;>
    (repeat (first
      | rw [BitVec.extractLsb'_append_eq_of_le (by decide)]
      | rw [BitVec.extractLsb'_append_eq_of_add_le (by decide)]
      | rw [BitVec.getLsbD_append])) <;> simp

/-- The fields of format BR. -/
theorem formatBR_fields (n z p : Bool) (off : BitVec 9) :
    field (formatBR n z p off) 12 4 = 0#4 ∧ field (formatBR n z p off) 0 9 = off ∧
    bitField (formatBR n z p off) 11 = n ∧ bitField (formatBR n z p off) 10 = z ∧
    bitField (formatBR n z p off) 9 = p := by
  obtain ⟨h0, h1, h2, h3, h4⟩ := bits_BR (flagBit n) (flagBit z) (flagBit p) off
  exact ⟨h0, h1, h2.trans (by simp [flagBit]), h3.trans (by simp [flagBit]), h4.trans (by simp [flagBit])⟩

/-- A row matches a word exactly when every bit its mask counts is as its pattern has it. -/
theorem TableRow.matches_iff (r : TableRow) (m : FixedBits) (w : Word) :
    r.matches m w = true ↔ ∀ i : Fin 16, (r.mask m).getLsbD i = true → w.getLsbD i = r.pattern.getLsbD i := by
  simp only [TableRow.matches, beq_iff_eq]
  constructor
  · intro h i hi
    have := congrArg (fun x => BitVec.getLsbD x i) h
    simp only [BitVec.getLsbD_and, hi, Bool.and_true] at this
    exact this
  · intro h
    apply BitVec.eq_of_getLsbD_eq
    intro i hi
    rw [BitVec.getLsbD_and, BitVec.getLsbD_and]
    cases hm : (r.mask m).getLsbD i
    · simp
    · rw [h ⟨i, hi⟩ hm]

/-- A field has a value exactly when its bits are the value's. -/
theorem field_eq_iff (w : Word) (lo len : Nat) (v : BitVec len) :
    field w lo len = v ↔ ∀ i : Fin len, w.getLsbD (lo + i) = v.getLsbD i := by
  constructor
  · intro h i
    rw [← h]
    simp [field]
  · intro h
    apply BitVec.eq_of_getLsbD_eq
    intro i hi
    rw [← h ⟨i, hi⟩]
    simp [field, hi]

/-- One matching row makes a word legal. -/
theorem legalWord_of_row {m : FixedBits} {w : Word} (r : TableRow) (hr : r ∈ instructionRows)
    (h : ∀ i : Fin 16, (r.mask m).getLsbD i = true → w.getLsbD i = r.pattern.getLsbD i) :
    legalWord m w = true :=
  List.any_eq_true.2 ⟨r, hr, (r.matches_iff m w).2 h⟩

/-- A word that decodes to an instruction has a row of the opcode table (R82, R83). -/
theorem legalWord_of_decode_ne_illegal (m : FixedBits) (w : Word) (h : decode m w ≠ .illegal w) :
    legalWord m w = true := by
  unfold decode at h
  split at h
  case h_1 e =>
    refine legalWord_of_row ⟨0x0000, 0xF000, 0xF000⟩ (by decide) ?_
    rw [field_eq_iff] at e
    simp only [Fin.forall_fin_succ] at e ⊢
    cases m <;> simp_all [TableRow.mask]
  case h_2 e =>
    rw [field_eq_iff] at e
    split at h
    · next e2 =>
      refine legalWord_of_row ⟨0x1020, 0xF020, 0xF020⟩ (by decide) ?_
      simp only [Fin.forall_fin_succ] at e ⊢
      cases m <;> simp_all [TableRow.mask, bitField]
    · split at h
      · next e1 e2 =>
        refine legalWord_of_row ⟨0x1000, 0xF038, 0xF020⟩ (by decide) ?_
        simp only [fixedOk, Bool.or_eq_true, beq_iff_eq, field_eq_iff] at e2
        simp only [Fin.forall_fin_succ] at e e2 ⊢
        cases m <;> simp_all [TableRow.mask, bitField]
      · exact absurd rfl h
  case h_3 e =>
    refine legalWord_of_row ⟨0x2000, 0xF000, 0xF000⟩ (by decide) ?_
    rw [field_eq_iff] at e
    simp only [Fin.forall_fin_succ] at e ⊢
    cases m <;> simp_all [TableRow.mask]
  case h_4 e =>
    refine legalWord_of_row ⟨0x3000, 0xF000, 0xF000⟩ (by decide) ?_
    rw [field_eq_iff] at e
    simp only [Fin.forall_fin_succ] at e ⊢
    cases m <;> simp_all [TableRow.mask]
  case h_5 e =>
    rw [field_eq_iff] at e
    split at h
    · next e2 =>
      refine legalWord_of_row ⟨0x4800, 0xF800, 0xF800⟩ (by decide) ?_
      simp only [Fin.forall_fin_succ] at e ⊢
      cases m <;> simp_all [TableRow.mask, bitField]
    · split at h
      · next e1 e2 =>
        refine legalWord_of_row ⟨0x4000, 0xFE3F, 0xF800⟩ (by decide) ?_
        simp only [fixedOk, Bool.and_eq_true, Bool.or_eq_true, beq_iff_eq, field_eq_iff] at e2
        simp only [Fin.forall_fin_succ] at e e2 ⊢
        cases m <;> simp_all [TableRow.mask, bitField]
      · exact absurd rfl h
  case h_6 e =>
    rw [field_eq_iff] at e
    split at h
    · next e2 =>
      refine legalWord_of_row ⟨0x5020, 0xF020, 0xF020⟩ (by decide) ?_
      simp only [Fin.forall_fin_succ] at e ⊢
      cases m <;> simp_all [TableRow.mask, bitField]
    · split at h
      · next e1 e2 =>
        refine legalWord_of_row ⟨0x5000, 0xF038, 0xF020⟩ (by decide) ?_
        simp only [fixedOk, Bool.or_eq_true, beq_iff_eq, field_eq_iff] at e2
        simp only [Fin.forall_fin_succ] at e e2 ⊢
        cases m <;> simp_all [TableRow.mask, bitField]
      · exact absurd rfl h
  case h_7 e =>
    refine legalWord_of_row ⟨0x6000, 0xF000, 0xF000⟩ (by decide) ?_
    rw [field_eq_iff] at e
    simp only [Fin.forall_fin_succ] at e ⊢
    cases m <;> simp_all [TableRow.mask]
  case h_8 e =>
    refine legalWord_of_row ⟨0x7000, 0xF000, 0xF000⟩ (by decide) ?_
    rw [field_eq_iff] at e
    simp only [Fin.forall_fin_succ] at e ⊢
    cases m <;> simp_all [TableRow.mask]
  case h_9 e =>
    split at h
    · next e2 =>
      refine legalWord_of_row ⟨0x8000, 0xFFFF, 0xF000⟩ (by decide) ?_
      rw [field_eq_iff] at e
      rw [fixedOk, Bool.or_eq_true, beq_iff_eq, beq_iff_eq, field_eq_iff] at e2
      simp only [Fin.forall_fin_succ] at e e2 ⊢
      cases m <;> simp_all [TableRow.mask]
    · exact absurd rfl h
  case h_10 e =>
    split at h
    · next e2 =>
      refine legalWord_of_row ⟨0x903F, 0xF03F, 0xF000⟩ (by decide) ?_
      rw [field_eq_iff] at e
      rw [fixedOk, Bool.or_eq_true, beq_iff_eq, beq_iff_eq, field_eq_iff] at e2
      simp only [Fin.forall_fin_succ] at e e2 ⊢
      cases m <;> simp_all [TableRow.mask]
    · exact absurd rfl h
  case h_11 e =>
    refine legalWord_of_row ⟨0xA000, 0xF000, 0xF000⟩ (by decide) ?_
    rw [field_eq_iff] at e
    simp only [Fin.forall_fin_succ] at e ⊢
    cases m <;> simp_all [TableRow.mask]
  case h_12 e =>
    refine legalWord_of_row ⟨0xB000, 0xF000, 0xF000⟩ (by decide) ?_
    rw [field_eq_iff] at e
    simp only [Fin.forall_fin_succ] at e ⊢
    cases m <;> simp_all [TableRow.mask]
  case h_13 e =>
    rw [field_eq_iff] at e
    split at h
    · next e2 =>
      refine legalWord_of_row ⟨0xC000, 0xFE3F, 0xF000⟩ (by decide) ?_
      simp only [fixedOk, Bool.and_eq_true, Bool.or_eq_true, beq_iff_eq, field_eq_iff] at e2
      simp only [Fin.forall_fin_succ] at e e2 ⊢
      cases m <;> simp_all [TableRow.mask]
    · exact absurd rfl h
  case h_14 e =>
    refine legalWord_of_row ⟨0xE000, 0xF000, 0xF000⟩ (by decide) ?_
    rw [field_eq_iff] at e
    simp only [Fin.forall_fin_succ] at e ⊢
    cases m <;> simp_all [TableRow.mask]
  case h_15 e =>
    split at h
    · next e2 =>
      refine legalWord_of_row ⟨0xF000, 0xFF00, 0xF000⟩ (by decide) ?_
      rw [field_eq_iff] at e
      rw [fixedOk, Bool.or_eq_true, beq_iff_eq, beq_iff_eq, field_eq_iff] at e2
      simp only [Fin.forall_fin_succ] at e e2 ⊢
      cases m <;> simp_all [TableRow.mask]
    · exact absurd rfl h
  case h_16 => exact absurd rfl h

end Sys2Proof
end

