-- ==== Sys2Proof/Laws/Memory.lean ====
section
/-! SUPPORT. The backing array: read after write, the canonical form, and equality of canonical memories. -/

namespace Sys2Proof.Machine.Memory

@[simp] theorem readAt_nil (a : Nat) : readAt [] a = blank := rfl

theorem readAt_cons_pair (b : Nat) (v : Word) (rest : Memory) (a : Nat) :
    readAt ((b, v) :: rest) a = if a = b then v else readAt rest a := rfl

/-- Below the first address it may list, a canonical list reads as unlisted. -/
theorem readAt_of_lt {lo : Nat} {m : Memory} (h : wfFrom lo m = true) {a : Nat} (ha : a < lo) :
    readAt m a = blank := by
  induction m generalizing lo with
  | nil => rfl
  | cons c rest ih =>
    obtain ⟨b, v⟩ := c
    simp only [wfFrom, Bool.and_eq_true, decide_eq_true_eq] at h
    obtain ⟨⟨⟨hlo, -⟩, -⟩, hrest⟩ := h
    rw [readAt_cons_pair, if_neg (by omega)]
    exact ih hrest (by omega)

theorem wfFrom_mono {lo lo' : Nat} (hle : lo' ≤ lo) {m : Memory} (h : wfFrom lo m = true) :
    wfFrom lo' m = true := by
  cases m with
  | nil => rfl
  | cons c rest =>
    obtain ⟨b, v⟩ := c
    simp only [wfFrom, Bool.and_eq_true, decide_eq_true_eq] at h ⊢
    exact ⟨⟨⟨by omega, h.1.1.2⟩, h.1.2⟩, h.2⟩

/-- Putting a word at the head reads as that word there, and as the list elsewhere. -/
theorem readAt_cons {a : Nat} {v : Word} {rest : Memory} (h : readAt rest a = blank) (x : Nat) :
    readAt (cons a v rest) x = if x = a then v else readAt rest x := by
  unfold cons
  by_cases hv : v = blank
  · rw [if_pos hv]
    by_cases hx : x = a
    · rw [if_pos hx, hx, h, hv]
    · rw [if_neg hx]
  · rw [if_neg hv, readAt_cons_pair]

theorem wfFrom_cons {lo a : Nat} {v : Word} {rest : Memory} (hlo : lo ≤ a) (ha : a < 65536)
    (h : wfFrom (a + 1) rest = true) : wfFrom lo (cons a v rest) = true := by
  unfold cons
  by_cases hv : v = blank
  · rw [if_pos hv]
    exact wfFrom_mono (by omega) h
  · rw [if_neg hv]
    simp [wfFrom, hlo, ha, hv, h]

/-- A write keeps the canonical form. -/
theorem wfFrom_writeAt {lo a : Nat} {v : Word} {m : Memory} (h : wfFrom lo m = true) (hlo : lo ≤ a)
    (ha : a < 65536) : wfFrom lo (writeAt m a v) = true := by
  induction m generalizing lo with
  | nil => exact wfFrom_cons hlo ha rfl
  | cons c rest ih =>
    obtain ⟨b, w⟩ := c
    have h' := h
    simp only [wfFrom, Bool.and_eq_true, decide_eq_true_eq] at h'
    obtain ⟨⟨⟨hb, hb2⟩, hw⟩, hrest⟩ := h'
    unfold writeAt
    split
    · next hab =>
      refine wfFrom_cons hlo ha ?_
      simp only [wfFrom, Bool.and_eq_true, decide_eq_true_eq]
      exact ⟨⟨⟨by omega, hb2⟩, hw⟩, hrest⟩
    · split
      · next hab =>
        subst hab
        exact wfFrom_cons hlo ha hrest
      · next h1 h2 =>
        simp only [wfFrom, Bool.and_eq_true, decide_eq_true_eq]
        exact ⟨⟨⟨hb, hb2⟩, hw⟩, ih hrest (by omega)⟩

/-- Read after write, at every address. -/
theorem readAt_writeAt {lo a : Nat} {v : Word} {m : Memory} (h : wfFrom lo m = true) (x : Nat) :
    readAt (writeAt m a v) x = if x = a then v else readAt m x := by
  induction m generalizing lo with
  | nil => exact readAt_cons rfl x
  | cons c rest ih =>
    obtain ⟨b, w⟩ := c
    have h' := h
    simp only [wfFrom, Bool.and_eq_true, decide_eq_true_eq] at h'
    obtain ⟨⟨⟨hb, hb2⟩, hw⟩, hrest⟩ := h'
    unfold writeAt
    split
    · next hab =>
      refine readAt_cons ?_ x
      rw [readAt_cons_pair, if_neg (by omega)]
      exact readAt_of_lt hrest (by omega)
    · split
      · next hab =>
        subst hab
        rw [readAt_cons (readAt_of_lt hrest (by omega)) x, readAt_cons_pair]
        split <;> simp_all
      · next h1 h2 =>
        rw [readAt_cons_pair, readAt_cons_pair, ih hrest]
        by_cases hx : x = b
        · rw [if_pos hx, if_pos hx, if_neg (by omega)]
        · rw [if_neg hx, if_neg hx]

/-- Canonical lists that read alike are the same list. -/
theorem eq_of_readAt_eq {lo : Nat} {m n : Memory} (hm : wfFrom lo m = true) (hn : wfFrom lo n = true)
    (h : ∀ a, readAt m a = readAt n a) : m = n := by
  induction m generalizing lo n with
  | nil =>
    cases n with
    | nil => rfl
    | cons c rest =>
      obtain ⟨b, v⟩ := c
      have hb := h b
      simp only [wfFrom, Bool.and_eq_true, bne_iff_ne] at hn
      rw [readAt_cons_pair, if_pos rfl] at hb
      exact absurd hb.symm hn.1.2
  | cons c rest ih =>
    obtain ⟨b, v⟩ := c
    cases n with
    | nil =>
      have hb := h b
      simp only [wfFrom, Bool.and_eq_true, bne_iff_ne] at hm
      rw [readAt_cons_pair, if_pos rfl] at hb
      exact absurd hb hm.1.2
    | cons d rest' =>
      obtain ⟨b', v'⟩ := d
      have hm' := hm
      have hn' := hn
      simp only [wfFrom, Bool.and_eq_true, decide_eq_true_eq, bne_iff_ne] at hm' hn'
      obtain ⟨⟨⟨-, -⟩, hv⟩, hrest⟩ := hm'
      obtain ⟨⟨⟨-, -⟩, hv'⟩, hrest'⟩ := hn'
      have key : b = b' := by
        rcases Nat.lt_trichotomy b b' with hlt | heq | hgt
        · have hb := h b
          rw [readAt_cons_pair, if_pos rfl, readAt_cons_pair, if_neg (by omega),
            readAt_of_lt hrest' (by omega)] at hb
          exact absurd hb hv
        · exact heq
        · have hb := h b'
          rw [readAt_cons_pair, if_neg (by omega), readAt_of_lt hrest (by omega), readAt_cons_pair,
            if_pos rfl] at hb
          exact absurd hb.symm hv'
      subst key
      have hvv : v = v' := by simpa [readAt_cons_pair] using h b
      subst hvv
      rw [ih hrest hrest' fun a => ?_]
      by_cases ha : a = b
      · rw [ha, readAt_of_lt hrest (by omega), readAt_of_lt hrest' (by omega)]
      · simpa [readAt_cons_pair, ha] using h a

theorem wf_nil : wf [] = true := rfl

theorem wf_write {m : Memory} (h : m.wf = true) (a v : Word) : (m.write a v).wf = true :=
  wfFrom_writeAt h (Nat.zero_le _) a.isLt

/-- Read after write through the 16-bit address. -/
theorem read_write {m : Memory} (h : m.wf = true) (a v x : Word) :
    (m.write a v).read x = if x = a then v else m.read x := by
  unfold read write
  rw [readAt_writeAt h]
  by_cases hx : x = a
  · simp [hx]
  · rw [if_neg hx, if_neg fun he => hx (BitVec.eq_of_toNat_eq he)]

/-- A listed address is inside the address space. -/
theorem readAt_of_ge {lo : Nat} {m : Memory} (h : wfFrom lo m = true) {a : Nat} (ha : 65536 ≤ a) :
    readAt m a = blank := by
  induction m generalizing lo with
  | nil => rfl
  | cons c rest ih =>
    obtain ⟨b, v⟩ := c
    simp only [wfFrom, Bool.and_eq_true, decide_eq_true_eq] at h
    rw [readAt_cons_pair, if_neg (by omega)]
    exact ih h.2

/-- Canonical memories that read alike at every 16-bit address are equal data. -/
theorem eq_of_read_eq {m n : Memory} (hm : m.wf = true) (hn : n.wf = true) (h : ∀ a, m.read a = n.read a) :
    m = n := by
  refine eq_of_readAt_eq hm hn fun a => ?_
  by_cases ha : a < 65536
  · simpa [read, BitVec.toNat_ofNat, Nat.mod_eq_of_lt ha] using h (BitVec.ofNat 16 a)
  · rw [readAt_of_ge hm (by omega), readAt_of_ge hn (by omega)]

/-- A block write keeps the canonical form when it stays inside the address space. -/
theorem wf_writeBlock {m : Memory} (h : m.wf = true) {a : Nat} {ws : List Word} (ha : a + ws.length ≤ 65536) :
    (m.writeBlock a ws).wf = true := by
  induction ws generalizing m a with
  | nil => exact h
  | cons w rest ih =>
    simp only [List.length_cons] at ha
    exact ih (wfFrom_writeAt h (Nat.zero_le _) (by omega)) (by omega)

/-- What a block write leaves at each address. -/
theorem readAt_writeBlock {m : Memory} (h : m.wf = true) {a : Nat} {ws : List Word} (ha : a + ws.length ≤ 65536)
    (x : Nat) :
    readAt (m.writeBlock a ws) x = if hx : a ≤ x ∧ x < a + ws.length then ws[x - a] else readAt m x := by
  induction ws generalizing m a with
  | nil =>
    rw [dif_neg (by simp)]
    rfl
  | cons w rest ih =>
    simp only [List.length_cons] at ha
    rw [writeBlock, ih (wfFrom_writeAt h (Nat.zero_le _) (by omega)) (by omega), readAt_writeAt h]
    by_cases h1 : a + 1 ≤ x ∧ x < a + 1 + rest.length
    · rw [dif_pos h1, dif_pos (by simp; omega)]
      have : x - a = (x - (a + 1)) + 1 := by omega
      simp [this]
    · rw [dif_neg h1]
      by_cases h2 : x = a
      · subst h2
        simp
      · rw [if_neg h2, dif_neg (by simp; omega)]

end Sys2Proof.Machine.Memory
end

