-- ==== Sys2Proof/Laws/State.lean ====
section
/-! SUPPORT. What each field is after each named update of the state: one lemma per field per update. -/

namespace Sys2Proof.Machine

@[simp] theorem State.setReg_pc (s : State) (r : Reg) (v : Word) : (s.setReg r v).pc = s.pc := rfl
@[simp] theorem State.setReg_psr (s : State) (r : Reg) (v : Word) : (s.setReg r v).psr = s.psr := rfl
@[simp] theorem State.setReg_savedSSP (s : State) (r : Reg) (v : Word) : (s.setReg r v).savedSSP = s.savedSSP := rfl
@[simp] theorem State.setReg_savedUSP (s : State) (r : Reg) (v : Word) : (s.setReg r v).savedUSP = s.savedUSP := rfl
@[simp] theorem State.setReg_memory (s : State) (r : Reg) (v : Word) : (s.setReg r v).memory = s.memory := rfl
@[simp] theorem State.setReg_mcr (s : State) (r : Reg) (v : Word) : (s.setReg r v).mcr = s.mcr := rfl
@[simp] theorem State.setReg_kbdReady (s : State) (r : Reg) (v : Word) : (s.setReg r v).kbdReady = s.kbdReady := rfl
@[simp] theorem State.setReg_kbdIE (s : State) (r : Reg) (v : Word) : (s.setReg r v).kbdIE = s.kbdIE := rfl
@[simp] theorem State.setReg_kbdData (s : State) (r : Reg) (v : Word) : (s.setReg r v).kbdData = s.kbdData := rfl
@[simp] theorem State.setReg_dsrReady (s : State) (r : Reg) (v : Word) : (s.setReg r v).dsrReady = s.dsrReady := rfl
@[simp] theorem State.setReg_ddr (s : State) (r : Reg) (v : Word) : (s.setReg r v).ddr = s.ddr := rfl
@[simp] theorem State.setReg_output (s : State) (r : Reg) (v : Word) : (s.setReg r v).output = s.output := rfl
@[simp] theorem State.setReg_engine (s : State) (r : Reg) (v : Word) : (s.setReg r v).engine = s.engine := rfl
@[simp] theorem State.setReg_breakpoints (s : State) (r : Reg) (v : Word) : (s.setReg r v).breakpoints = s.breakpoints := rfl
@[simp] theorem State.setReg_budget (s : State) (r : Reg) (v : Word) : (s.setReg r v).budget = s.budget := rfl
@[simp] theorem State.setReg_stopRequest (s : State) (r : Reg) (v : Word) : (s.setReg r v).stopRequest = s.stopRequest := rfl
@[simp] theorem State.setReg_dsrDraws (s : State) (r : Reg) (v : Word) : (s.setReg r v).dsrDraws = s.dsrDraws := rfl
@[simp] theorem State.setReg_params (s : State) (r : Reg) (v : Word) : (s.setReg r v).params = s.params := rfl
@[simp] theorem State.setCC_regs (s : State) (v : Word) : (s.setCC v).regs = s.regs := rfl
@[simp] theorem State.setCC_pc (s : State) (v : Word) : (s.setCC v).pc = s.pc := rfl
@[simp] theorem State.setCC_savedSSP (s : State) (v : Word) : (s.setCC v).savedSSP = s.savedSSP := rfl
@[simp] theorem State.setCC_savedUSP (s : State) (v : Word) : (s.setCC v).savedUSP = s.savedUSP := rfl
@[simp] theorem State.setCC_memory (s : State) (v : Word) : (s.setCC v).memory = s.memory := rfl
@[simp] theorem State.setCC_mcr (s : State) (v : Word) : (s.setCC v).mcr = s.mcr := rfl
@[simp] theorem State.setCC_kbdReady (s : State) (v : Word) : (s.setCC v).kbdReady = s.kbdReady := rfl
@[simp] theorem State.setCC_kbdIE (s : State) (v : Word) : (s.setCC v).kbdIE = s.kbdIE := rfl
@[simp] theorem State.setCC_kbdData (s : State) (v : Word) : (s.setCC v).kbdData = s.kbdData := rfl
@[simp] theorem State.setCC_dsrReady (s : State) (v : Word) : (s.setCC v).dsrReady = s.dsrReady := rfl
@[simp] theorem State.setCC_ddr (s : State) (v : Word) : (s.setCC v).ddr = s.ddr := rfl
@[simp] theorem State.setCC_output (s : State) (v : Word) : (s.setCC v).output = s.output := rfl
@[simp] theorem State.setCC_engine (s : State) (v : Word) : (s.setCC v).engine = s.engine := rfl
@[simp] theorem State.setCC_breakpoints (s : State) (v : Word) : (s.setCC v).breakpoints = s.breakpoints := rfl
@[simp] theorem State.setCC_budget (s : State) (v : Word) : (s.setCC v).budget = s.budget := rfl
@[simp] theorem State.setCC_stopRequest (s : State) (v : Word) : (s.setCC v).stopRequest = s.stopRequest := rfl
@[simp] theorem State.setCC_dsrDraws (s : State) (v : Word) : (s.setCC v).dsrDraws = s.dsrDraws := rfl
@[simp] theorem State.setCC_params (s : State) (v : Word) : (s.setCC v).params = s.params := rfl

/-- Reading a register after a write: the value there, as before elsewhere (R20, R256). -/
theorem State.reg_setReg (s : State) (r q : Reg) (v : Word) :
    (s.setReg r v).reg q = if q = r then v else s.reg q := by
  unfold State.reg State.setReg
  rw [Vector.getElem_set]
  by_cases h : q = r
  · simp [h]
  · rw [if_neg h, if_neg fun he => h (Fin.ext he.symm)]

@[simp] theorem State.reg_setReg_self (s : State) (r : Reg) (v : Word) : (s.setReg r v).reg r = v := by
  rw [State.reg_setReg, if_pos rfl]

@[simp] theorem State.reg_setReg_ne (s : State) {r q : Reg} (v : Word) (h : q ≠ r) :
    (s.setReg r v).reg q = s.reg q := by
  rw [State.reg_setReg, if_neg h]

@[simp] theorem State.setCC_reg (s : State) (v : Word) (r : Reg) : (s.setCC v).reg r = s.reg r := rfl
@[simp] theorem State.setCC_psr (s : State) (v : Word) : (s.setCC v).psr = s.psr.setCC v := rfl

/-- Registers that read alike are the same register file. -/
theorem State.regs_ext {s t : State} (h : ∀ r : Reg, t.reg r = s.reg r) : t.regs = s.regs :=
  Vector.ext fun i hi => h ⟨i, hi⟩

@[simp] theorem Psr.setCC_mode (q : Psr) (v : Word) : (q.setCC v).mode = q.mode := rfl
@[simp] theorem Psr.setCC_pl (q : Psr) (v : Word) : (q.setCC v).pl = q.pl := rfl
@[simp] theorem Psr.setCC_n (q : Psr) (v : Word) : (q.setCC v).n = v.msb := rfl
@[simp] theorem Psr.setCC_z (q : Psr) (v : Word) : (q.setCC v).z = (v == 0) := rfl
@[simp] theorem Psr.setCC_p (q : Psr) (v : Word) : (q.setCC v).p = (!v.msb && v != 0) := rfl

/-- Packing and unpacking PSR: no bit of it is lost (R25). -/
@[simp] theorem Psr.unpack_pack (q : Psr) : Psr.unpack q.pack = q := by
  obtain ⟨m, pl, n, z, p⟩ := q
  revert m pl n z p
  have h : ∀ (u : Bool) (pl : BitVec 3) (n z p : Bool),
      Psr.unpack (Psr.pack ⟨Mode.ofBit u, pl, n, z, p⟩) = ⟨Mode.ofBit u, pl, n, z, p⟩ := by decide
  intro m pl n z p
  cases m
  · exact h false pl n z p
  · exact h true pl n z p

end Sys2Proof.Machine
end

