-- ==== Sys2Proof/Laws/Ops.lean ====
section
/-! SUPPORT. What each shared operation can do: one lemma says all it may change, and one lemma per field it leaves. -/

namespace Sys2Proof.Machine

/-! The intercept. -/

/-- An address that is no device register goes to the backing array (R52). -/
theorem memRead_plain {a : Word} (h : isDevice a = false) (s : State) : memRead a s = (s.memory.read a, s) := by
  simp only [isDevice, deviceAddresses, List.contains_eq_mem, List.mem_cons, List.not_mem_nil, or_false,
    decide_eq_false_iff_not, not_or] at h
  simp [memRead, h]

/-- A read changes at most READY of the keyboard and, under the draw policy, READY of the display (R53, R224). -/
theorem memRead_state (a : Word) (s : State) :
    (memRead a s).2 = { s with
      kbdReady := (memRead a s).2.kbdReady
      dsrReady := (memRead a s).2.dsrReady
      dsrDraws := (memRead a s).2.dsrDraws } := by
  unfold memRead
  split_ifs <;> try rfl
  unfold dsrRead
  split <;> rfl

@[simp] theorem memRead_regs (a : Word) (s : State) : (memRead a s).2.regs = s.regs := by rw [memRead_state]
@[simp] theorem memRead_pc (a : Word) (s : State) : (memRead a s).2.pc = s.pc := by rw [memRead_state]
@[simp] theorem memRead_psr (a : Word) (s : State) : (memRead a s).2.psr = s.psr := by rw [memRead_state]
@[simp] theorem memRead_savedSSP (a : Word) (s : State) : (memRead a s).2.savedSSP = s.savedSSP := by rw [memRead_state]
@[simp] theorem memRead_savedUSP (a : Word) (s : State) : (memRead a s).2.savedUSP = s.savedUSP := by rw [memRead_state]
@[simp] theorem memRead_memory (a : Word) (s : State) : (memRead a s).2.memory = s.memory := by rw [memRead_state]
@[simp] theorem memRead_mcr (a : Word) (s : State) : (memRead a s).2.mcr = s.mcr := by rw [memRead_state]
@[simp] theorem memRead_kbdIE (a : Word) (s : State) : (memRead a s).2.kbdIE = s.kbdIE := by rw [memRead_state]
@[simp] theorem memRead_kbdData (a : Word) (s : State) : (memRead a s).2.kbdData = s.kbdData := by rw [memRead_state]
@[simp] theorem memRead_ddr (a : Word) (s : State) : (memRead a s).2.ddr = s.ddr := by rw [memRead_state]
@[simp] theorem memRead_output (a : Word) (s : State) : (memRead a s).2.output = s.output := by rw [memRead_state]
@[simp] theorem memRead_engine (a : Word) (s : State) : (memRead a s).2.engine = s.engine := by rw [memRead_state]
@[simp] theorem memRead_breakpoints (a : Word) (s : State) : (memRead a s).2.breakpoints = s.breakpoints := by rw [memRead_state]
@[simp] theorem memRead_budget (a : Word) (s : State) : (memRead a s).2.budget = s.budget := by rw [memRead_state]
@[simp] theorem memRead_stopRequest (a : Word) (s : State) : (memRead a s).2.stopRequest = s.stopRequest := by rw [memRead_state]
@[simp] theorem memRead_params (a : Word) (s : State) : (memRead a s).2.params = s.params := by rw [memRead_state]

@[simp] theorem memRead_reg (a : Word) (s : State) (r : Reg) : (memRead a s).2.reg r = s.reg r := by
  simp [State.reg]

/-- A read clears the keyboard's READY exactly at KBDR (R53, R221). -/
theorem memRead_kbdReady (a : Word) (s : State) :
    (memRead a s).2.kbdReady = if a = addrKBDR then false else s.kbdReady := by
  have hne : addrKBDR ≠ addrKBSR := by decide
  unfold memRead
  split_ifs with h1 h2 h2 <;> simp_all [kbsrRead, kbdrRead, ddrRead, mcrRead]
  unfold dsrRead
  split <;> rfl

/-- Under `DISPLAY_READY` = always a read leaves the display as it is (R224). -/
theorem memRead_display {s : State} (h : s.params.displayReady = .always) (a : Word) :
    (memRead a s).2.dsrReady = s.dsrReady ∧ (memRead a s).2.dsrDraws = s.dsrDraws := by
  unfold memRead
  split_ifs <;> try exact ⟨rfl, rfl⟩
  simp [dsrRead, h]

/-- A read away from the KBDR and DSR changes nothing (R53). -/
theorem memRead_unchanged {a : Word} (h1 : a ≠ addrKBDR) (h2 : a ≠ addrDSR) (s : State) :
    memRead a s = (s.peek a, s) := by
  unfold memRead State.peek
  split_ifs <;> rfl

/-- Under `DISPLAY_READY` = always a read gives what the address shows (R52, R146). -/
theorem memRead_value {s : State} (h : s.params.displayReady = .always) (a : Word) :
    (memRead a s).1 = s.peek a := by
  unfold memRead State.peek
  split_ifs <;> try rfl
  simp [dsrRead, State.dsr, h]

/-- A write away from the device registers goes to the backing array (R52). -/
theorem memWrite_plain {a : Word} (h : isDevice a = false) (v : Word) (s : State) :
    memWrite a v s = { s with memory := s.memory.write a v } := by
  simp only [isDevice, deviceAddresses, List.contains_eq_mem, List.mem_cons, List.not_mem_nil, or_false,
    decide_eq_false_iff_not, not_or] at h
  simp [memWrite, h]

/-- A write changes at most IE, DDR with the output, MCR, or one word of memory (R52). -/
theorem memWrite_state (a v : Word) (s : State) :
    memWrite a v s = { s with
      kbdIE := (memWrite a v s).kbdIE
      ddr := (memWrite a v s).ddr
      output := (memWrite a v s).output
      mcr := (memWrite a v s).mcr
      memory := (memWrite a v s).memory } := by
  unfold memWrite
  split_ifs <;> rfl

@[simp] theorem memWrite_regs (a v : Word) (s : State) : (memWrite a v s).regs = s.regs := by rw [memWrite_state]
@[simp] theorem memWrite_pc (a v : Word) (s : State) : (memWrite a v s).pc = s.pc := by rw [memWrite_state]
@[simp] theorem memWrite_psr (a v : Word) (s : State) : (memWrite a v s).psr = s.psr := by rw [memWrite_state]
@[simp] theorem memWrite_savedSSP (a v : Word) (s : State) : (memWrite a v s).savedSSP = s.savedSSP := by rw [memWrite_state]
@[simp] theorem memWrite_savedUSP (a v : Word) (s : State) : (memWrite a v s).savedUSP = s.savedUSP := by rw [memWrite_state]
@[simp] theorem memWrite_kbdReady (a v : Word) (s : State) : (memWrite a v s).kbdReady = s.kbdReady := by rw [memWrite_state]
@[simp] theorem memWrite_kbdData (a v : Word) (s : State) : (memWrite a v s).kbdData = s.kbdData := by rw [memWrite_state]
@[simp] theorem memWrite_dsrReady (a v : Word) (s : State) : (memWrite a v s).dsrReady = s.dsrReady := by rw [memWrite_state]
@[simp] theorem memWrite_engine (a v : Word) (s : State) : (memWrite a v s).engine = s.engine := by rw [memWrite_state]
@[simp] theorem memWrite_breakpoints (a v : Word) (s : State) : (memWrite a v s).breakpoints = s.breakpoints := by rw [memWrite_state]
@[simp] theorem memWrite_budget (a v : Word) (s : State) : (memWrite a v s).budget = s.budget := by rw [memWrite_state]
@[simp] theorem memWrite_stopRequest (a v : Word) (s : State) : (memWrite a v s).stopRequest = s.stopRequest := by rw [memWrite_state]
@[simp] theorem memWrite_dsrDraws (a v : Word) (s : State) : (memWrite a v s).dsrDraws = s.dsrDraws := by rw [memWrite_state]
@[simp] theorem memWrite_params (a v : Word) (s : State) : (memWrite a v s).params = s.params := by rw [memWrite_state]

@[simp] theorem memWrite_reg (a v : Word) (s : State) (r : Reg) : (memWrite a v s).reg r = s.reg r := by
  simp [State.reg]

/-- A write changes the backing array only at a plain address (R52). -/
theorem memWrite_memory (a v : Word) (s : State) :
    (memWrite a v s).memory = if isDevice a then s.memory else s.memory.write a v := by
  cases h : isDevice a
  · simp [memWrite_plain h]
  · simp only [isDevice, deviceAddresses, List.contains_eq_mem, List.mem_cons, List.not_mem_nil, or_false,
      decide_eq_true_eq] at h
    rcases h with h | h | h | h | h <;> subst h <;> rfl

/-- A write keeps memory canonical. -/
theorem memWrite_memory_wf {s : State} (h : s.memory.wf = true) (a v : Word) :
    (memWrite a v s).memory.wf = true := by
  rw [memWrite_memory]
  split
  · exact h
  · exact Memory.wf_write h a v

/-- What every address of the backing array reads as after a write. -/
theorem memWrite_read {s : State} (h : s.memory.wf = true) (a v x : Word) :
    (memWrite a v s).memory.read x = if x = a ∧ isDevice a = false then v else s.memory.read x := by
  rw [memWrite_memory]
  cases hd : isDevice a
  · rw [if_neg (by simp), Memory.read_write h]
    simp
  · simp

/-- The MCR after a write (R228). -/
theorem memWrite_mcr (a v : Word) (s : State) :
    (memWrite a v s).mcr = if a = addrMCR then v else s.mcr := by
  have h1 : addrMCR ≠ addrKBSR := by decide
  have h2 : addrMCR ≠ addrKBDR := by decide
  have h3 : addrMCR ≠ addrDSR := by decide
  have h4 : addrMCR ≠ addrDDR := by decide
  unfold memWrite
  split_ifs <;> simp_all [kbsrWrite, kbdrWrite, dsrWrite, ddrWrite, mcrWrite]

/-! The stack. -/

/-- `Push(v)` in the terms of a write (R9). -/
theorem push_eq (v : Word) (s : State) :
    push v s = memWrite (s.reg regSP - 1) v (s.setReg regSP (s.reg regSP - 1)) := rfl

/-- `Pop()` in the terms of a read (R9). -/
theorem pop_eq (s : State) :
    pop s = ((memRead (s.reg regSP) s).1,
      (memRead (s.reg regSP) s).2.setReg regSP (s.reg regSP + 1)) := by
  simp [pop]

@[simp] theorem push_pc (v : Word) (s : State) : (push v s).pc = s.pc := by simp [push_eq]
@[simp] theorem push_psr (v : Word) (s : State) : (push v s).psr = s.psr := by simp [push_eq]
@[simp] theorem push_savedSSP (v : Word) (s : State) : (push v s).savedSSP = s.savedSSP := by simp [push_eq]
@[simp] theorem push_savedUSP (v : Word) (s : State) : (push v s).savedUSP = s.savedUSP := by simp [push_eq]
@[simp] theorem push_kbdReady (v : Word) (s : State) : (push v s).kbdReady = s.kbdReady := by simp [push_eq]
@[simp] theorem push_kbdData (v : Word) (s : State) : (push v s).kbdData = s.kbdData := by simp [push_eq]
@[simp] theorem push_dsrReady (v : Word) (s : State) : (push v s).dsrReady = s.dsrReady := by simp [push_eq]
@[simp] theorem push_engine (v : Word) (s : State) : (push v s).engine = s.engine := by simp [push_eq]
@[simp] theorem push_breakpoints (v : Word) (s : State) : (push v s).breakpoints = s.breakpoints := by simp [push_eq]
@[simp] theorem push_budget (v : Word) (s : State) : (push v s).budget = s.budget := by simp [push_eq]
@[simp] theorem push_stopRequest (v : Word) (s : State) : (push v s).stopRequest = s.stopRequest := by simp [push_eq]
@[simp] theorem push_dsrDraws (v : Word) (s : State) : (push v s).dsrDraws = s.dsrDraws := by simp [push_eq]
@[simp] theorem push_params (v : Word) (s : State) : (push v s).params = s.params := by simp [push_eq]
@[simp] theorem pop_pc (s : State) : (pop s).2.pc = s.pc := by simp [pop_eq]
@[simp] theorem pop_psr (s : State) : (pop s).2.psr = s.psr := by simp [pop_eq]
@[simp] theorem pop_savedSSP (s : State) : (pop s).2.savedSSP = s.savedSSP := by simp [pop_eq]
@[simp] theorem pop_savedUSP (s : State) : (pop s).2.savedUSP = s.savedUSP := by simp [pop_eq]
@[simp] theorem pop_memory (s : State) : (pop s).2.memory = s.memory := by simp [pop_eq]
@[simp] theorem pop_mcr (s : State) : (pop s).2.mcr = s.mcr := by simp [pop_eq]
@[simp] theorem pop_kbdIE (s : State) : (pop s).2.kbdIE = s.kbdIE := by simp [pop_eq]
@[simp] theorem pop_kbdData (s : State) : (pop s).2.kbdData = s.kbdData := by simp [pop_eq]
@[simp] theorem pop_ddr (s : State) : (pop s).2.ddr = s.ddr := by simp [pop_eq]
@[simp] theorem pop_output (s : State) : (pop s).2.output = s.output := by simp [pop_eq]
@[simp] theorem pop_engine (s : State) : (pop s).2.engine = s.engine := by simp [pop_eq]
@[simp] theorem pop_breakpoints (s : State) : (pop s).2.breakpoints = s.breakpoints := by simp [pop_eq]
@[simp] theorem pop_budget (s : State) : (pop s).2.budget = s.budget := by simp [pop_eq]
@[simp] theorem pop_stopRequest (s : State) : (pop s).2.stopRequest = s.stopRequest := by simp [pop_eq]
@[simp] theorem pop_params (s : State) : (pop s).2.params = s.params := by simp [pop_eq]

@[simp] theorem push_reg (v : Word) (s : State) (r : Reg) :
    (push v s).reg r = if r = regSP then s.reg regSP - 1 else s.reg r := by
  simp [push_eq, State.reg_setReg]

@[simp] theorem pop_reg (s : State) (r : Reg) :
    (pop s).2.reg r = if r = regSP then s.reg regSP + 1 else s.reg r := by
  simp [pop_eq, State.reg_setReg]

/-- A push keeps memory canonical. -/
theorem push_memory_wf {s : State} (h : s.memory.wf = true) (v : Word) : (push v s).memory.wf = true := by
  rw [push_eq]
  exact memWrite_memory_wf (by simpa using h) _ _

/-! Entry. -/

theorem switchToSupervisor_mode (s : State) : (switchToSupervisor s).psr = { s.psr with mode := .supervisor } := by
  unfold switchToSupervisor
  cases h : s.psr.mode <;> simp [← h]

theorem switchToSupervisor_reg (s : State) (r : Reg) :
    (switchToSupervisor s).reg r = if r = regSP then s.entryStack else s.reg r := by
  unfold switchToSupervisor State.entryStack
  cases s.psr.mode
  · by_cases h : r = regSP <;> simp [h]
  · exact State.reg_setReg s regSP r s.savedSSP

@[simp] theorem switchToSupervisor_pc (s : State) : (switchToSupervisor s).pc = s.pc := by
  unfold switchToSupervisor; cases s.psr.mode <;> rfl
@[simp] theorem switchToSupervisor_savedSSP (s : State) : (switchToSupervisor s).savedSSP = s.savedSSP := by
  unfold switchToSupervisor; cases s.psr.mode <;> rfl
@[simp] theorem switchToSupervisor_memory (s : State) : (switchToSupervisor s).memory = s.memory := by
  unfold switchToSupervisor; cases s.psr.mode <;> rfl
@[simp] theorem switchToSupervisor_mcr (s : State) : (switchToSupervisor s).mcr = s.mcr := by
  unfold switchToSupervisor; cases s.psr.mode <;> rfl
@[simp] theorem switchToSupervisor_kbdReady (s : State) : (switchToSupervisor s).kbdReady = s.kbdReady := by
  unfold switchToSupervisor; cases s.psr.mode <;> rfl
@[simp] theorem switchToSupervisor_kbdIE (s : State) : (switchToSupervisor s).kbdIE = s.kbdIE := by
  unfold switchToSupervisor; cases s.psr.mode <;> rfl
@[simp] theorem switchToSupervisor_kbdData (s : State) : (switchToSupervisor s).kbdData = s.kbdData := by
  unfold switchToSupervisor; cases s.psr.mode <;> rfl
@[simp] theorem switchToSupervisor_dsrReady (s : State) : (switchToSupervisor s).dsrReady = s.dsrReady := by
  unfold switchToSupervisor; cases s.psr.mode <;> rfl
@[simp] theorem switchToSupervisor_ddr (s : State) : (switchToSupervisor s).ddr = s.ddr := by
  unfold switchToSupervisor; cases s.psr.mode <;> rfl
@[simp] theorem switchToSupervisor_output (s : State) : (switchToSupervisor s).output = s.output := by
  unfold switchToSupervisor; cases s.psr.mode <;> rfl
@[simp] theorem switchToSupervisor_engine (s : State) : (switchToSupervisor s).engine = s.engine := by
  unfold switchToSupervisor; cases s.psr.mode <;> rfl
@[simp] theorem switchToSupervisor_breakpoints (s : State) : (switchToSupervisor s).breakpoints = s.breakpoints := by
  unfold switchToSupervisor; cases s.psr.mode <;> rfl
@[simp] theorem switchToSupervisor_budget (s : State) : (switchToSupervisor s).budget = s.budget := by
  unfold switchToSupervisor; cases s.psr.mode <;> rfl
@[simp] theorem switchToSupervisor_stopRequest (s : State) : (switchToSupervisor s).stopRequest = s.stopRequest := by
  unfold switchToSupervisor; cases s.psr.mode <;> rfl
@[simp] theorem switchToSupervisor_dsrDraws (s : State) : (switchToSupervisor s).dsrDraws = s.dsrDraws := by
  unfold switchToSupervisor; cases s.psr.mode <;> rfl
@[simp] theorem switchToSupervisor_params (s : State) : (switchToSupervisor s).params = s.params := by
  unfold switchToSupervisor; cases s.psr.mode <;> rfl

theorem switchToSupervisor_savedUSP (s : State) :
    (switchToSupervisor s).savedUSP = if s.psr.mode = .user then s.reg regSP else s.savedUSP := by
  unfold switchToSupervisor
  cases s.psr.mode <;> rfl

/-- The state an entry pushes its frame in: supervisor mode, its stack, and the priority level set. -/
def entryBase (pl : BitVec 3) (s : State) : State :=
  { switchToSupervisor s with psr := { (switchToSupervisor s).psr with pl := pl } }

/-- An entry: two pushes, then the vector read into PC (R187, R203, R213). -/
theorem enter_eq (tableEntry : Word) (pl : BitVec 3) (s : State) :
    enter tableEntry pl s =
      { (memRead tableEntry (push s.pc (push s.psr.pack (entryBase pl s)))).2 with
        pc := (memRead tableEntry (push s.pc (push s.psr.pack (entryBase pl s)))).1 } := rfl

@[simp] theorem enter_savedSSP (a : Word) (pl : BitVec 3) (s : State) : (enter a pl s).savedSSP = s.savedSSP := by
  simp [enter_eq, entryBase]
@[simp] theorem enter_kbdData (a : Word) (pl : BitVec 3) (s : State) : (enter a pl s).kbdData = s.kbdData := by
  simp [enter_eq, entryBase]
@[simp] theorem enter_engine (a : Word) (pl : BitVec 3) (s : State) : (enter a pl s).engine = s.engine := by
  simp [enter_eq, entryBase]
@[simp] theorem enter_breakpoints (a : Word) (pl : BitVec 3) (s : State) : (enter a pl s).breakpoints = s.breakpoints := by
  simp [enter_eq, entryBase]
@[simp] theorem enter_budget (a : Word) (pl : BitVec 3) (s : State) : (enter a pl s).budget = s.budget := by
  simp [enter_eq, entryBase]
@[simp] theorem enter_stopRequest (a : Word) (pl : BitVec 3) (s : State) : (enter a pl s).stopRequest = s.stopRequest := by
  simp [enter_eq, entryBase]
@[simp] theorem enter_params (a : Word) (pl : BitVec 3) (s : State) : (enter a pl s).params = s.params := by
  simp [enter_eq, entryBase]

@[simp] theorem enter_psr (a : Word) (pl : BitVec 3) (s : State) :
    (enter a pl s).psr = { s.psr with mode := .supervisor, pl := pl } := by
  simp [enter_eq, entryBase, switchToSupervisor_mode]

@[simp] theorem enter_savedUSP (a : Word) (pl : BitVec 3) (s : State) :
    (enter a pl s).savedUSP = if s.psr.mode = .user then s.reg regSP else s.savedUSP := by
  simp [enter_eq, entryBase, switchToSupervisor_savedUSP]

theorem entryBase_reg (pl : BitVec 3) (s : State) (r : Reg) :
    (entryBase pl s).reg r = if r = regSP then s.entryStack else s.reg r :=
  switchToSupervisor_reg s r

@[simp] theorem enter_reg (a : Word) (pl : BitVec 3) (s : State) (r : Reg) :
    (enter a pl s).reg r = if r = regSP then s.entryStack - 2 else s.reg r := by
  rw [enter_eq]
  change (memRead a _).2.reg r = _
  rw [memRead_reg, push_reg, push_reg, push_reg, entryBase_reg, entryBase_reg]
  by_cases h : r = regSP
  · simp only [h, if_true]
    ring
  · simp only [h, if_false]

/-- An entry keeps memory canonical. -/
theorem enter_memory_wf {s : State} (h : s.memory.wf = true) (a : Word) (pl : BitVec 3) :
    (enter a pl s).memory.wf = true := by
  rw [enter_eq]
  simp only [memRead_memory]
  exact push_memory_wf (push_memory_wf (by simpa [entryBase] using h) _) _

/-- No entry of the trap vector table is a device address (R48). -/
theorem isDevice_trapTableEntry : ∀ v : BitVec 8, isDevice (trapTableEntry v) = false := by decide

/-- No entry of the interrupt vector table is a device address (R48). -/
theorem isDevice_interruptTableEntry : ∀ v : BitVec 8, isDevice (interruptTableEntry v) = false := by decide

/-- An entry through a table, whose entries are plain memory: the frame, then PC from the table (R202). -/
theorem enter_plain {tableEntry : Word} (h : isDevice tableEntry = false) (pl : BitVec 3) (s : State) :
    enter tableEntry pl s =
      { push s.pc (push s.psr.pack (entryBase pl s)) with
        pc := (push s.pc (push s.psr.pack (entryBase pl s))).memory.read tableEntry } := by
  rw [enter_eq, memRead_plain h]

/-! Return. -/

/-- What the return pops and restores (R189). -/
theorem returnFromEntry_eq (s : State) :
    returnFromEntry s =
      switchToRestoredMode { (pop { (pop s).2 with pc := (pop s).1 }).2 with
        psr := Psr.unpack (pop { (pop s).2 with pc := (pop s).1 }).1 } := rfl

@[simp] theorem switchToRestoredMode_pc (s : State) : (switchToRestoredMode s).pc = s.pc := by
  unfold switchToRestoredMode; cases s.psr.mode <;> rfl
@[simp] theorem switchToRestoredMode_psr (s : State) : (switchToRestoredMode s).psr = s.psr := by
  unfold switchToRestoredMode; cases s.psr.mode <;> rfl
@[simp] theorem switchToRestoredMode_savedUSP (s : State) : (switchToRestoredMode s).savedUSP = s.savedUSP := by
  unfold switchToRestoredMode; cases s.psr.mode <;> rfl
@[simp] theorem switchToRestoredMode_memory (s : State) : (switchToRestoredMode s).memory = s.memory := by
  unfold switchToRestoredMode; cases s.psr.mode <;> rfl
@[simp] theorem switchToRestoredMode_mcr (s : State) : (switchToRestoredMode s).mcr = s.mcr := by
  unfold switchToRestoredMode; cases s.psr.mode <;> rfl
@[simp] theorem switchToRestoredMode_kbdReady (s : State) : (switchToRestoredMode s).kbdReady = s.kbdReady := by
  unfold switchToRestoredMode; cases s.psr.mode <;> rfl
@[simp] theorem switchToRestoredMode_kbdIE (s : State) : (switchToRestoredMode s).kbdIE = s.kbdIE := by
  unfold switchToRestoredMode; cases s.psr.mode <;> rfl
@[simp] theorem switchToRestoredMode_kbdData (s : State) : (switchToRestoredMode s).kbdData = s.kbdData := by
  unfold switchToRestoredMode; cases s.psr.mode <;> rfl
@[simp] theorem switchToRestoredMode_dsrReady (s : State) : (switchToRestoredMode s).dsrReady = s.dsrReady := by
  unfold switchToRestoredMode; cases s.psr.mode <;> rfl
@[simp] theorem switchToRestoredMode_ddr (s : State) : (switchToRestoredMode s).ddr = s.ddr := by
  unfold switchToRestoredMode; cases s.psr.mode <;> rfl
@[simp] theorem switchToRestoredMode_output (s : State) : (switchToRestoredMode s).output = s.output := by
  unfold switchToRestoredMode; cases s.psr.mode <;> rfl
@[simp] theorem switchToRestoredMode_engine (s : State) : (switchToRestoredMode s).engine = s.engine := by
  unfold switchToRestoredMode; cases s.psr.mode <;> rfl
@[simp] theorem switchToRestoredMode_breakpoints (s : State) : (switchToRestoredMode s).breakpoints = s.breakpoints := by
  unfold switchToRestoredMode; cases s.psr.mode <;> rfl
@[simp] theorem switchToRestoredMode_budget (s : State) : (switchToRestoredMode s).budget = s.budget := by
  unfold switchToRestoredMode; cases s.psr.mode <;> rfl
@[simp] theorem switchToRestoredMode_stopRequest (s : State) : (switchToRestoredMode s).stopRequest = s.stopRequest := by
  unfold switchToRestoredMode; cases s.psr.mode <;> rfl
@[simp] theorem switchToRestoredMode_dsrDraws (s : State) : (switchToRestoredMode s).dsrDraws = s.dsrDraws := by
  unfold switchToRestoredMode; cases s.psr.mode <;> rfl
@[simp] theorem switchToRestoredMode_params (s : State) : (switchToRestoredMode s).params = s.params := by
  unfold switchToRestoredMode; cases s.psr.mode <;> rfl

theorem switchToRestoredMode_savedSSP (s : State) :
    (switchToRestoredMode s).savedSSP = if s.psr.mode = .user then s.reg regSP else s.savedSSP := by
  unfold switchToRestoredMode
  cases s.psr.mode <;> rfl

theorem switchToRestoredMode_reg (s : State) (r : Reg) :
    (switchToRestoredMode s).reg r =
      if s.psr.mode = .user ∧ r = regSP then s.savedUSP else s.reg r := by
  unfold switchToRestoredMode
  cases s.psr.mode
  · simp
  · simp only [true_and]
    exact State.reg_setReg s regSP r s.savedUSP

@[simp] theorem returnFromEntry_savedUSP (s : State) : (returnFromEntry s).savedUSP = s.savedUSP := by
  simp [returnFromEntry_eq]
@[simp] theorem returnFromEntry_memory (s : State) : (returnFromEntry s).memory = s.memory := by
  simp [returnFromEntry_eq]
@[simp] theorem returnFromEntry_mcr (s : State) : (returnFromEntry s).mcr = s.mcr := by
  simp [returnFromEntry_eq]
@[simp] theorem returnFromEntry_kbdIE (s : State) : (returnFromEntry s).kbdIE = s.kbdIE := by
  simp [returnFromEntry_eq]
@[simp] theorem returnFromEntry_kbdData (s : State) : (returnFromEntry s).kbdData = s.kbdData := by
  simp [returnFromEntry_eq]
@[simp] theorem returnFromEntry_ddr (s : State) : (returnFromEntry s).ddr = s.ddr := by
  simp [returnFromEntry_eq]
@[simp] theorem returnFromEntry_output (s : State) : (returnFromEntry s).output = s.output := by
  simp [returnFromEntry_eq]
@[simp] theorem returnFromEntry_engine (s : State) : (returnFromEntry s).engine = s.engine := by
  simp [returnFromEntry_eq]
@[simp] theorem returnFromEntry_breakpoints (s : State) : (returnFromEntry s).breakpoints = s.breakpoints := by
  simp [returnFromEntry_eq]
@[simp] theorem returnFromEntry_budget (s : State) : (returnFromEntry s).budget = s.budget := by
  simp [returnFromEntry_eq]
@[simp] theorem returnFromEntry_stopRequest (s : State) : (returnFromEntry s).stopRequest = s.stopRequest := by
  simp [returnFromEntry_eq]
@[simp] theorem returnFromEntry_params (s : State) : (returnFromEntry s).params = s.params := by
  simp [returnFromEntry_eq]

/-! The boundary. -/

@[simp] theorem stopCheck_regs (s : State) : (stopCheck s).regs = s.regs := rfl
@[simp] theorem stopCheck_pc (s : State) : (stopCheck s).pc = s.pc := rfl
@[simp] theorem stopCheck_psr (s : State) : (stopCheck s).psr = s.psr := rfl
@[simp] theorem stopCheck_savedSSP (s : State) : (stopCheck s).savedSSP = s.savedSSP := rfl
@[simp] theorem stopCheck_savedUSP (s : State) : (stopCheck s).savedUSP = s.savedUSP := rfl
@[simp] theorem stopCheck_memory (s : State) : (stopCheck s).memory = s.memory := rfl
@[simp] theorem stopCheck_mcr (s : State) : (stopCheck s).mcr = s.mcr := rfl
@[simp] theorem stopCheck_kbdReady (s : State) : (stopCheck s).kbdReady = s.kbdReady := rfl
@[simp] theorem stopCheck_kbdIE (s : State) : (stopCheck s).kbdIE = s.kbdIE := rfl
@[simp] theorem stopCheck_kbdData (s : State) : (stopCheck s).kbdData = s.kbdData := rfl
@[simp] theorem stopCheck_dsrReady (s : State) : (stopCheck s).dsrReady = s.dsrReady := rfl
@[simp] theorem stopCheck_ddr (s : State) : (stopCheck s).ddr = s.ddr := rfl
@[simp] theorem stopCheck_output (s : State) : (stopCheck s).output = s.output := rfl
@[simp] theorem stopCheck_breakpoints (s : State) : (stopCheck s).breakpoints = s.breakpoints := rfl
@[simp] theorem stopCheck_dsrDraws (s : State) : (stopCheck s).dsrDraws = s.dsrDraws := rfl
@[simp] theorem stopCheck_params (s : State) : (stopCheck s).params = s.params := rfl

/-- The boundary's three outcomes (R127 step 8). -/
theorem boundary_cases (s : State) :
    (s.mcr.getLsbD 15 = false ∧ boundary s = { s with engine := .halted }) ∨
    (s.mcr.getLsbD 15 = true ∧ interruptPending s = true ∧ boundary s = stopCheck (interruptEntry s)) ∨
    (s.mcr.getLsbD 15 = true ∧ interruptPending s = false ∧ boundary s = stopCheck s) := by
  unfold boundary
  cases h1 : s.mcr.getLsbD 15 <;> cases h2 : interruptPending s <;> simp

end Sys2Proof.Machine
end

