-- ==== Sys2Proof/Laws/OsContract.lean ====
section
/-! SUPPORT. Runs one after another, what a load and a bring-up leave, and the end-to-end property of a conforming OS
image (60_exceptions.md R240). -/

namespace Sys2Proof.Machine

/-! Runs. -/

theorem steps_zero (s : State) : steps 0 s = .next s := rfl

theorem steps_succ (k : Nat) (s : State) :
    steps (k + 1) s = match step s with
      | .next t => steps k t
      | .fault f => .fault f
      | .refused r => .refused r := rfl

/-- Steps after steps are steps. -/
theorem steps_add {k j : Nat} {s t u : State} (h : steps k s = .next t) (h' : steps j t = .next u) :
    steps (k + j) s = .next u := by
  induction k generalizing s with
  | zero =>
    cases h
    rwa [Nat.zero_add]
  | succ k ih =>
    rw [Nat.succ_add, steps_succ]
    rw [steps_succ] at h
    split at h
    · exact ih h
    · cases h
    · cases h

theorem Reaches.trans {s t u : State} (h : Reaches s t) (h' : Reaches t u) : Reaches s u :=
  let ⟨_, hk⟩ := h
  let ⟨_, hj⟩ := h'
  ⟨_, steps_add hk hj⟩

theorem Reaches.step {s t : State} (h : step s = .next t) : Reaches s t :=
  ⟨1, by rw [steps_succ, h]; rfl⟩

/-! Loads. -/

/-- A load that succeeds writes the blocks, each of which fits (R56). -/
theorem State.load_ok {blocks : List Block} {s t : State} (h : s.load blocks = .ok t) :
    (∀ b ∈ blocks, b.fits = true) ∧ t = { s with memory := writeBlocks s.memory blocks } := by
  unfold State.load at h
  split at h
  · cases h
  · next hf =>
    refine ⟨fun b hb => ?_, (Except.ok.inj h).symm⟩
    simpa using List.find?_eq_none.mp hf b hb

/-- Blocks that fit keep memory canonical. -/
theorem writeBlocks_wf {m : Memory} (hm : m.wf = true) {blocks : List Block} (h : ∀ b ∈ blocks, b.fits = true) :
    (writeBlocks m blocks).wf = true := by
  induction blocks generalizing m with
  | nil => exact hm
  | cons b rest ih =>
    have hb : b.origin.toNat + b.words.length ≤ 65536 := of_decide_eq_true (h b List.mem_cons_self)
    exact ih (Memory.wf_writeBlock hm hb) fun c hc => h c (List.mem_cons_of_mem _ hc)

/-- Bring-up, as its loads (R250). -/
theorem bringUp_ok {p : Params} {d : ResetDraws} {img : OsImage} {user : List Block} {s : State}
    (h : bringUp p d img user = .ok s) :
    ∃ m : Memory, m.wf = true ∧ { powerOn p d with memory := m }.load user = .ok s := by
  unfold bringUp at h
  cases h1 : (powerOn p d).load [img.tables] with
  | error e => rw [h1] at h; cases h
  | ok s1 =>
    cases h2 : s1.load [img.code] with
    | error e => simp [h1, h2, bind, Except.bind] at h
    | ok s2 =>
      simp only [h1, h2, bind, Except.bind] at h
      obtain ⟨f1, e1⟩ := State.load_ok h1
      obtain ⟨f2, e2⟩ := State.load_ok h2
      subst e1 e2
      exact ⟨_, writeBlocks_wf (writeBlocks_wf rfl f1) f2, h⟩

/-! The end-to-end property. -/

/-- Where the user program is the one word of HALT, a ready user state at 0x3000 is about to trap. -/
theorem AboutToTrap.of_entersUser {os : OsDescription} {p : Params} {s t : State} (hc : os.ChoicesOk p)
    (h : EntersUser os p s t) (hwin : p.inUserWindow 0x3000 = true) (hword : s.memory.read 0x3000 = 0xF025) :
    AboutToTrap os p trapHALT t := by
  have hmay : os.mayWrite os.supervisorStack 0x3000 = false := by
    have hs : os.inStack os.supervisorStack 0x3000 = false :=
      Bool.eq_false_iff.mpr fun hin => absurd ((hc.supervisorStack _ hin).symm.trans hwin) (by decide)
    rw [OsDescription.mayWrite, hs, Bool.or_false, List.contains_eq_mem]
    exact decide_eq_false hc.origin
  have hread : t.memory.read 0x3000 = 0xF025 := (h.memory _ hmay).trans hword
  refine ⟨h.ready, ?_, ?_⟩
  · rw [fetchViolates, State.violates, h.pc, h.ready.params, hwin]
    simp
  · rw [fetch, h.pc, memRead_plain (by decide)]
    exact hread.trans (by decide)

/-- R240: every conforming image has the source's end-to-end property, where 0x3000 is the user's. -/
theorem OsDescription.Conforms.endToEnd {os : OsDescription} {p : Params} (h : os.Conforms p)
    (hwin : p.inUserWindow 0x3000 = true) : os.EndToEnd p := by
  intro d s hs himg hfair
  obtain ⟨k, t, hk, ht, -⟩ := h.starts d _ s hs himg hfair
  have hword : s.memory.read 0x3000 = 0xF025 := by
    obtain ⟨m, hm, hl⟩ := bringUp_ok hs
    rw [(State.load_ok hl).2]
    exact (Memory.read_write hm 0x3000 0xF025 0x3000).trans (if_pos rfl)
  obtain ⟨⟨u, v, hu, -, -, hout, hstep, hclock, heng, hsame⟩, -⟩ :=
    h.serves.halt t (AboutToTrap.of_entersUser h.choices ht hwin hword)
  refine ⟨v, Reaches.trans ⟨k, hk⟩ (hu.trans (Reaches.step hstep)), heng, hclock, ?_⟩
  rw [hsame, hout]
  exact List.suffix_append _ _

end Sys2Proof.Machine
end

