-- ==== Sys2Proof/Laws/PerInstr.lean ====
section
/-! SUPPORT. Statements made per instruction: the encoding's round trip (40_encoder.md R117), one lemma a constructor. -/

open Sys2Proof

/-- Decoding an instruction's word gives its core instruction back, if the instruction is well-formed. -/
def Sys2Proof.Laws.RoundTrip.Statement (i : Instr) : Prop :=
  ∀ m : FixedBits, i.wellFormed m = true → decode m (encode i) = i.core

theorem Sys2Proof.Laws.RoundTrip.addReg (dr sr1 sr2 : Reg) :
    Sys2Proof.Laws.RoundTrip.Statement (.addReg dr sr1 sr2) := by
  intro m _
  obtain ⟨h0, h1, h2, h3, h4, h5⟩ := formatRRR_fields 0b0001#4 dr sr1 sr2
  simp [encode, decode, Instr.core, h0, h1, h2, h3, h4, h5, fixedOk]

theorem Sys2Proof.Laws.RoundTrip.addImm (dr sr1 : Reg) (imm5 : BitVec 5) :
    Sys2Proof.Laws.RoundTrip.Statement (.addImm dr sr1 imm5) := by
  intro m _
  obtain ⟨h0, h1, h2, h3, h4⟩ := formatRRI_fields 0b0001#4 dr sr1 imm5
  simp [encode, decode, Instr.core, h0, h1, h2, h3, h4]

theorem Sys2Proof.Laws.RoundTrip.andReg (dr sr1 sr2 : Reg) :
    Sys2Proof.Laws.RoundTrip.Statement (.andReg dr sr1 sr2) := by
  intro m _
  obtain ⟨h0, h1, h2, h3, h4, h5⟩ := formatRRR_fields 0b0101#4 dr sr1 sr2
  simp [encode, decode, Instr.core, h0, h1, h2, h3, h4, h5, fixedOk]

theorem Sys2Proof.Laws.RoundTrip.andImm (dr sr1 : Reg) (imm5 : BitVec 5) :
    Sys2Proof.Laws.RoundTrip.Statement (.andImm dr sr1 imm5) := by
  intro m _
  obtain ⟨h0, h1, h2, h3, h4⟩ := formatRRI_fields 0b0101#4 dr sr1 imm5
  simp [encode, decode, Instr.core, h0, h1, h2, h3, h4]

theorem Sys2Proof.Laws.RoundTrip.not (dr sr : Reg) :
    Sys2Proof.Laws.RoundTrip.Statement (.not dr sr) := by
  intro m _
  obtain ⟨h0, h1, h2, h3⟩ := formatNOT_fields dr sr
  simp [encode, decode, Instr.core, h0, h1, h2, h3, fixedOk]

theorem Sys2Proof.Laws.RoundTrip.br (n z p : Bool) (off : BitVec 9) :
    Sys2Proof.Laws.RoundTrip.Statement (.br n z p off) := by
  intro m _
  obtain ⟨h0, h1, h2, h3, h4⟩ := formatBR_fields n z p off
  simp [encode, decode, Instr.core, h0, h1, h2, h3, h4]

theorem Sys2Proof.Laws.RoundTrip.jmp (baseR : Reg) :
    Sys2Proof.Laws.RoundTrip.Statement (.jmp baseR) := by
  intro m _
  obtain ⟨h0, h1, h2, h3, h4, h5⟩ := formatBase_fields 0b1100#4 baseR
  simp [encode, decode, Instr.core, h0, h1, h2, h3, fixedOk]

theorem Sys2Proof.Laws.RoundTrip.jsr (off : BitVec 11) :
    Sys2Proof.Laws.RoundTrip.Statement (.jsr off) := by
  intro m _
  obtain ⟨h0, h1, h2⟩ := formatJSR_fields off
  simp [encode, decode, Instr.core, h0, h1, h2]

theorem Sys2Proof.Laws.RoundTrip.jsrr (baseR : Reg) :
    Sys2Proof.Laws.RoundTrip.Statement (.jsrr baseR) := by
  intro m _
  obtain ⟨h0, h1, h2, h3, h4, h5⟩ := formatBase_fields 0b0100#4 baseR
  simp [encode, decode, Instr.core, h0, h1, h2, h4, h5, fixedOk]

theorem Sys2Proof.Laws.RoundTrip.ld (r : Reg) (off : BitVec 9) :
    Sys2Proof.Laws.RoundTrip.Statement (.ld r off) := by
  intro m _
  obtain ⟨h0, h1, h2⟩ := formatRPC9_fields 0b0010#4 r off
  simp [encode, decode, Instr.core, h0, h1, h2]

theorem Sys2Proof.Laws.RoundTrip.ldi (r : Reg) (off : BitVec 9) :
    Sys2Proof.Laws.RoundTrip.Statement (.ldi r off) := by
  intro m _
  obtain ⟨h0, h1, h2⟩ := formatRPC9_fields 0b1010#4 r off
  simp [encode, decode, Instr.core, h0, h1, h2]

theorem Sys2Proof.Laws.RoundTrip.lea (r : Reg) (off : BitVec 9) :
    Sys2Proof.Laws.RoundTrip.Statement (.lea r off) := by
  intro m _
  obtain ⟨h0, h1, h2⟩ := formatRPC9_fields 0b1110#4 r off
  simp [encode, decode, Instr.core, h0, h1, h2]

theorem Sys2Proof.Laws.RoundTrip.st (r : Reg) (off : BitVec 9) :
    Sys2Proof.Laws.RoundTrip.Statement (.st r off) := by
  intro m _
  obtain ⟨h0, h1, h2⟩ := formatRPC9_fields 0b0011#4 r off
  simp [encode, decode, Instr.core, h0, h1, h2]

theorem Sys2Proof.Laws.RoundTrip.sti (r : Reg) (off : BitVec 9) :
    Sys2Proof.Laws.RoundTrip.Statement (.sti r off) := by
  intro m _
  obtain ⟨h0, h1, h2⟩ := formatRPC9_fields 0b1011#4 r off
  simp [encode, decode, Instr.core, h0, h1, h2]

theorem Sys2Proof.Laws.RoundTrip.ldr (r baseR : Reg) (off : BitVec 6) :
    Sys2Proof.Laws.RoundTrip.Statement (.ldr r baseR off) := by
  intro m _
  obtain ⟨h0, h1, h2, h3⟩ := formatRRO6_fields 0b0110#4 r baseR off
  simp [encode, decode, Instr.core, h0, h1, h2, h3]

theorem Sys2Proof.Laws.RoundTrip.str (r baseR : Reg) (off : BitVec 6) :
    Sys2Proof.Laws.RoundTrip.Statement (.str r baseR off) := by
  intro m _
  obtain ⟨h0, h1, h2, h3⟩ := formatRRO6_fields 0b0111#4 r baseR off
  simp [encode, decode, Instr.core, h0, h1, h2, h3]

theorem Sys2Proof.Laws.RoundTrip.rti : Sys2Proof.Laws.RoundTrip.Statement .rti := by
  intro m _
  cases m <;> decide

theorem Sys2Proof.Laws.RoundTrip.trap (v : BitVec 8) :
    Sys2Proof.Laws.RoundTrip.Statement (.trap v) := by
  intro m _
  obtain ⟨h0, h1, h2⟩ := formatTRAP_fields v
  simp [encode, decode, Instr.core, h0, h1, h2, fixedOk]

theorem Sys2Proof.Laws.RoundTrip.illegal (w : Word) : Sys2Proof.Laws.RoundTrip.Statement (.illegal w) := by
  intro m h
  by_contra hne
  have hl : legalWord m w = true := legalWord_of_decode_ne_illegal m w hne
  simp [Instr.wellFormed, hl] at h

theorem Sys2Proof.Laws.RoundTrip.ret :
    Sys2Proof.Laws.RoundTrip.Statement .ret := by
  intro m _
  obtain ⟨h0, h1, h2, h3, h4, h5⟩ := formatBase_fields 0b1100#4 7
  simp [encode, decode, Instr.core, h0, h1, h2, h3, fixedOk]

theorem Sys2Proof.Laws.RoundTrip.getc : Sys2Proof.Laws.RoundTrip.Statement .getc :=
  fun m _ => Sys2Proof.Laws.RoundTrip.trap 0x20 m rfl

theorem Sys2Proof.Laws.RoundTrip.out : Sys2Proof.Laws.RoundTrip.Statement .out :=
  fun m _ => Sys2Proof.Laws.RoundTrip.trap 0x21 m rfl

theorem Sys2Proof.Laws.RoundTrip.puts : Sys2Proof.Laws.RoundTrip.Statement .puts :=
  fun m _ => Sys2Proof.Laws.RoundTrip.trap 0x22 m rfl

theorem Sys2Proof.Laws.RoundTrip.inp : Sys2Proof.Laws.RoundTrip.Statement .inp :=
  fun m _ => Sys2Proof.Laws.RoundTrip.trap 0x23 m rfl

theorem Sys2Proof.Laws.RoundTrip.putsp : Sys2Proof.Laws.RoundTrip.Statement .putsp :=
  fun m _ => Sys2Proof.Laws.RoundTrip.trap 0x24 m rfl

theorem Sys2Proof.Laws.RoundTrip.halt : Sys2Proof.Laws.RoundTrip.Statement .halt :=
  fun m _ => Sys2Proof.Laws.RoundTrip.trap 0x25 m rfl

theorem Sys2Proof.Laws.RoundTrip.brn (off : BitVec 9) : Sys2Proof.Laws.RoundTrip.Statement (.brn off) :=
  fun m _ => Sys2Proof.Laws.RoundTrip.br true false false off m rfl

theorem Sys2Proof.Laws.RoundTrip.brz (off : BitVec 9) : Sys2Proof.Laws.RoundTrip.Statement (.brz off) :=
  fun m _ => Sys2Proof.Laws.RoundTrip.br false true false off m rfl

theorem Sys2Proof.Laws.RoundTrip.brp (off : BitVec 9) : Sys2Proof.Laws.RoundTrip.Statement (.brp off) :=
  fun m _ => Sys2Proof.Laws.RoundTrip.br false false true off m rfl

theorem Sys2Proof.Laws.RoundTrip.brnz (off : BitVec 9) : Sys2Proof.Laws.RoundTrip.Statement (.brnz off) :=
  fun m _ => Sys2Proof.Laws.RoundTrip.br true true false off m rfl

theorem Sys2Proof.Laws.RoundTrip.brnp (off : BitVec 9) : Sys2Proof.Laws.RoundTrip.Statement (.brnp off) :=
  fun m _ => Sys2Proof.Laws.RoundTrip.br true false true off m rfl

theorem Sys2Proof.Laws.RoundTrip.brzp (off : BitVec 9) : Sys2Proof.Laws.RoundTrip.Statement (.brzp off) :=
  fun m _ => Sys2Proof.Laws.RoundTrip.br false true true off m rfl

theorem Sys2Proof.Laws.RoundTrip.brnzp (off : BitVec 9) : Sys2Proof.Laws.RoundTrip.Statement (.brnzp off) :=
  fun m _ => Sys2Proof.Laws.RoundTrip.br true true true off m rfl
end

