-- ==== Sys2Proof/Tests/Slice0.lean ====
section
/-! SUPPORT. Tests, each about one word, one line or one step, with expected results from spec/95_test_vectors.md
(cited as V1 to V9, W1 to W7) or written out from the formats of spec/30_encoding.md; then, for every statement with
hypotheses, witnesses that meet them. -/

namespace Sys2Proof.Tests

open Sys2Proof Sys2Proof.Machine

/-! Well-formedness. -/

/-- An illegal term must not carry a word the table gives an instruction (here ADD's), under either value of
`DECODE_FIXED_BITS`. -/
theorem test_wellFormed_refuses_legal_word_as_illegal :
    (Instr.illegal 0x1283).wellFormed .strict = false ∧ (Instr.illegal 0x1283).wellFormed .lenient = false := by decide

/-- A wrong fixed bit makes a word illegal under strict decode only (V2, 0x1288). -/
theorem test_wellFormed_fixed_bits :
    (Instr.illegal 0x1288).wellFormed .strict = true ∧ (Instr.illegal 0x1288).wellFormed .lenient = false ∧
    (Instr.illegal 0xD000).wellFormed .strict = true ∧ (Instr.illegal 0xDFFF).wellFormed .lenient = true := by decide

/-! Decoding: words written out field by field from R72 to R78. -/

theorem test_decode_operate :
    decode .strict 0b0001_111_110_000_101#16 = .addReg 7 6 5 ∧
    decode .strict 0b0001_001_010_1_10000#16 = .addImm 1 2 (-16) ∧
    decode .strict 0b0101_000_001_000_010#16 = .andReg 0 1 2 ∧
    decode .strict 0b0101_111_110_1_01111#16 = .andImm 7 6 15 ∧
    decode .strict 0b1001_010_011_111111#16 = .not 2 3 := by decide

theorem test_decode_control :
    decode .strict 0b0000_100_000000000#16 = .br true false false 0 ∧
    decode .strict 0b0000_011_011111111#16 = .br false true true 255 ∧
    decode .strict 0b1100_000_011_000000#16 = .jmp 3 ∧
    decode .strict 0b0100_1_01111111111#16 = .jsr 1023 ∧
    decode .strict 0b0100_000_101_000000#16 = .jsrr 5 := by decide

theorem test_decode_loads :
    decode .strict 0b0010_000_100000000#16 = .ld 0 (-256) ∧
    decode .strict 0b1010_001_000000001#16 = .ldi 1 1 ∧
    decode .strict 0b0110_001_010_100000#16 = .ldr 1 2 (-32) ∧
    decode .strict 0b1110_011_011111111#16 = .lea 3 255 := by decide

theorem test_decode_stores :
    decode .strict 0b0011_101_111111110#16 = .st 5 (-2) ∧
    decode .strict 0b1011_011_000000011#16 = .sti 3 3 ∧
    decode .strict 0b0111_001_010_011111#16 = .str 1 2 31 := by decide

theorem test_decode_system :
    decode .strict 0b1000_000000000000#16 = .rti ∧
    decode .strict 0b1111_0000_11111111#16 = .trap 0xFF ∧
    decode .strict 0b1101_000000000000#16 = .illegal 0xD000 := by decide

/-- V2: wrong fixed bits, strict and lenient. -/
theorem test_decode_fixed_bits :
    decode .strict 0x1288 = .illegal 0x1288 ∧ decode .lenient 0x1288 = .addReg 1 2 0 ∧
    decode .strict 0x903E = .illegal 0x903E ∧ decode .lenient 0x903E = .not 0 0 ∧
    decode .strict 0xC081 = .illegal 0xC081 ∧ decode .lenient 0xC081 = .jmp 2 ∧
    decode .strict 0x4200 = .illegal 0x4200 ∧ decode .lenient 0x4200 = .jsrr 0 ∧
    decode .strict 0x8001 = .illegal 0x8001 ∧ decode .lenient 0x8001 = .rti ∧
    decode .strict 0xF121 = .illegal 0xF121 ∧ decode .lenient 0xF121 = .trap 0x21 := by decide

/-- R87, R88, R90 and the table's `expands_to`: an alias has the core instruction's word, and the decoder answers the
core instruction. -/
theorem test_decode_aliases :
    encode .ret = 0xC1C0 ∧ decode .strict 0xC1C0 = .jmp 7 ∧
    encode .getc = 0xF020 ∧ decode .strict 0xF020 = .trap 0x20 ∧
    encode .out = 0xF021 ∧ encode .puts = 0xF022 ∧ encode .inp = 0xF023 ∧ encode .putsp = 0xF024 ∧
    encode .halt = 0xF025 ∧ decode .strict 0xF025 = .trap 0x25 ∧
    encode (.brn 0) = 0x0800 ∧ encode (.brz 0) = 0x0400 ∧ encode (.brp 0) = 0x0200 ∧
    encode (.brnz 0) = 0x0C00 ∧ encode (.brnp 0) = 0x0A00 ∧ encode (.brzp 255) = 0x06FF ∧
    encode (.brnzp (-1)) = 0x0FFF ∧ decode .strict 0x0FFF = .br true true true (-1) := by decide

/-- The table's words, as the host numbers them; a second word is no LC-3 instruction. -/
theorem test_decodeTableWord :
    decodeTableWord 16 0x1283 = some (.addReg 1 2 3) ∧ decodeTableWord 16 0x11283 = none := by decide

/-! The encoder unit. -/

/-- R104, R115: every pattern's slots cover bits 15 to 0 exactly once. -/
theorem test_catalog_slots_cover_the_word :
    (∀ p ∈ Encoder.catalog, Encoder.coversFrom 16 p.slots = true) ∧ Encoder.catalog.length = 33 ∧
    Encoder.catalog.Nodup := by decide

/-- W1: the five-bit immediate's ends, and just past them. -/
theorem test_encoder_imm5 :
    Encoder.encodeLine .addI [.reg 1, .reg 2, .num (-16)] 0x3000 [] = .word 0x12B0 ∧
    Encoder.encodeLine .addI [.reg 1, .reg 2, .num 15] 0x3000 [] = .word 0x12AF ∧
    Encoder.encodeLine .addI [.reg 1, .reg 2, .num 16] 0x3000 [] = .error (.outOfRange .imm5 (-16) 15) ∧
    Encoder.encodeLine .addI [.reg 1, .reg 2, .num (-17)] 0x3000 [] = .error (.outOfRange .imm5 (-16) 15) := by decide

/-- V1: the other fields' ends. -/
theorem test_encoder_offsets :
    Encoder.encodeLine .ldr [.reg 1, .reg 2, .num (-32)] 0x3000 [] = .word 0x62A0 ∧
    Encoder.encodeLine .str [.reg 1, .reg 2, .num (-33)] 0x3000 [] = .error (.outOfRange .offset6 (-32) 31) ∧
    Encoder.encodeLine .jsr [.num (-1024)] 0x3000 [] = .word 0x4C00 ∧
    Encoder.encodeLine .jsr [.num 1024] 0x3000 [] = .error (.outOfRange .pcOffset11 (-1024) 1023) ∧
    Encoder.encodeLine .trap [.num 255] 0x3000 [] = .word 0xF0FF ∧
    Encoder.encodeLine .trap [.num (-1)] 0x3000 [] = .error (.outOfRange .trapvect8 0 255) ∧
    Encoder.encodeLine .br [.num (-1)] 0x3000 [] = .word 0x0FFF := by decide

/-- V1: labels, with no wrap of the displacement (D30). -/
theorem test_encoder_labels :
    Encoder.encodeLine .ld [.reg 0, .lbl "NEAR"] 0x3000 [("NEAR", 0x3100)] = .word 0x20FF ∧
    Encoder.encodeLine .ld [.reg 0, .lbl "FAR"] 0x3000 [("FAR", 0x3101)] =
      .error (.outOfRange .pcOffset9 (-256) 255) ∧
    Encoder.encodeLine .br [.lbl "NOPE"] 0x3000 [] = .error (.unresolvedLabel "NOPE") ∧
    Encoder.encodeLine .jsr [.lbl "TOP"] 0x03FF [("TOP", 0x0000)] = .word 0x4C00 ∧
    Encoder.encodeLine .lea [.reg 3, .lbl "TOP"] 0xFFFF [("TOP", 0x0000)] =
      .error (.outOfRange .pcOffset9 (-256) 255) ∧
    Encoder.encodeLine .fill [.lbl "LBL"] 0x3000 [("LBL", 0x4321)] = .word 0x4321 := by decide

/-- R116: the pattern search goes by operand shape, and a register is spelt `R0` to `R7` in either case. -/
theorem test_encoder_search :
    Encoder.findInstruction [.reg 1, .reg 2, .reg 3] = [.addR, .andR] ∧
    Encoder.findReg ['r', '7'] = some 7 ∧ Encoder.findReg ['R', '8'] = none := by decide

/-! One step: the vectors' start state, and one field or more of what the step leaves. -/

/-- The start state of the vectors: PC 0x3000, R0 to R7 zero, SavedSSP 0x3000, MCR and DSR set, the engine running;
then the given PSR, registers and memory words. -/
def start (psr : Word) (regs : List (Reg × Word)) (words : List (Nat × Word)) : State :=
  { regs.foldl (fun s p => s.setReg p.1 p.2) State.reset with
    pc := 0x3000
    psr := Psr.unpack psr
    savedSSP := 0x3000
    engine := .running
    memory := words.foldl (fun m p => m.writeAt p.1 p.2) [] }

/-- What a step's next state shows, if there is one. -/
def after {α : Type} (s : State) (show_ : State → α) : Option α :=
  match step s with
  | .next t => some (show_ t)
  | .fault _ => none
  | .refused _ => none

/-- PC and PSR, which every vector gives. -/
def pcPsr (t : State) : Word × Word := (t.pc, t.psr.pack)

/-- The two words of a frame below a stack pointer, PSR first. -/
def frameAt (sp : Nat) (t : State) : Word × Word := (t.memory.readAt (sp - 1), t.memory.readAt (sp - 2))

/-- V3. -/
theorem test_add_register_wraps :
    after (start 0x0002 [(2, 0xFFFF), (3, 0x0001)] [(0x3000, 0x1283)]) (fun t => (t.reg 1, pcPsr t)) =
      some (0x0000, 0x3001, 0x0002) := by decide

/-- V3: source and destination the same register. -/
theorem test_add_register_to_itself :
    after (start 0x0002 [(1, 0x4000)] [(0x3000, 0x1241)]) (fun t => (t.reg 1, pcPsr t)) =
      some (0x8000, 0x3001, 0x0004) := by decide

/-- V3. -/
theorem test_add_immediate_negative :
    after (start 0x0002 [] [(0x3000, 0x12B0)]) (fun t => (t.reg 1, pcPsr t)) = some (0xFFF0, 0x3001, 0x0004) := by
  decide

/-- V3. -/
theorem test_add_immediate_overflow :
    after (start 0x0002 [(2, 0x7FFF)] [(0x3000, 0x12A1)]) (fun t => (t.reg 1, pcPsr t)) =
      some (0x8000, 0x3001, 0x0004) := by decide

/-- R152 by hand: 0x00FF AND 0x0F0F is 0x000F (`AND R0, R1, R2`). -/
theorem test_and_register :
    after (start 0x0002 [(1, 0x00FF), (2, 0x0F0F)] [(0x3000, 0x5042)]) (fun t => (t.reg 0, pcPsr t)) =
      some (0x000F, 0x3001, 0x0001) := by decide

/-- V3: the immediate is sign-extended. -/
theorem test_and_immediate_sign_extends :
    after (start 0x0002 [(1, 0xABCD)] [(0x3000, 0x5270)]) (fun t => (t.reg 1, pcPsr t)) =
      some (0xABC0, 0x3001, 0x0004) := by decide

/-- V3. -/
theorem test_and_immediate_positive :
    after (start 0x0002 [(1, 0xABCD)] [(0x3000, 0x526F)]) (fun t => (t.reg 1, pcPsr t)) =
      some (0x000D, 0x3001, 0x0001) := by decide

/-- V3. -/
theorem test_not :
    after (start 0x0002 [] [(0x3000, 0x94FF)]) (fun t => (t.reg 2, pcPsr t)) = some (0xFFFF, 0x3001, 0x0004) := by decide

/-- V4: the load reads its own word. -/
theorem test_ld_own_word :
    after (start 0x0002 [] [(0x3000, 0x21FF)]) (fun t => (t.reg 0, pcPsr t)) = some (0x21FF, 0x3001, 0x0001) := by
  decide

/-- V4: a user-mode load outside the window. -/
theorem test_ld_access_violation :
    after (start 0x8001 [(6, 0xF000)] [(0x3000, 0x21FE), (0x0102, 0x1100)])
      (fun t => (t.reg 0, t.savedUSP, t.reg 6, frameAt 0x3000 t, pcPsr t)) =
      some (0x0000, 0xF000, 0x2FFE, (0x8001, 0x3001), 0x1100, 0x0001) := by decide

/-- V4: the pointer names KBDR, whose read clears READY. -/
theorem test_ldi_kbdr :
    after { start 0x0002 [] [(0x3000, 0xA201), (0x3002, 0xFE02)] with kbdReady := true, kbdData := 0x61 }
      (fun t => (t.reg 1, t.kbsr, pcPsr t)) = some (0x0061, 0x0000, 0x3001, 0x0001) := by decide

/-- V4: the pointer read is allowed and the access is not. -/
theorem test_ldi_access_violation :
    after (start 0x8002 [(6, 0xF000)] [(0x3000, 0xA201), (0x3002, 0x0200), (0x0102, 0x1100)])
      (fun t => (t.reg 1, t.reg 6, frameAt 0x3000 t, t.pc)) =
      some (0x0000, 0x2FFE, (0x8002, 0x3001), 0x1100) := by decide

/-- V4: a status read has no side effect, and PL 7 masks the interrupt. -/
theorem test_ldr_kbsr :
    after { start 0x0702 [(1, 0xFE00)] [(0x3000, 0x6040)] with kbdReady := true, kbdIE := true }
      (fun t => (t.reg 0, t.kbsr, pcPsr t)) = some (0xC000, 0xC000, 0x3001, 0x0704) := by decide

/-- R162 by hand: `LDR R1, R2, #-32` with R2 = 0x4000 reads 0x3FE0. -/
theorem test_ldr_negative_offset :
    after (start 0x0002 [(2, 0x4000)] [(0x3000, 0x62A0), (0x3FE0, 0x0007)]) (fun t => (t.reg 1, pcPsr t)) =
      some (0x0007, 0x3001, 0x0001) := by decide

/-- V4: LEA makes no access and, by default, sets no flag. -/
theorem test_lea_user :
    after (start 0x8001 [] [(0x3000, 0xE1FE)]) (fun t => (t.reg 0, pcPsr t)) = some (0x2FFF, 0x3001, 0x8001) := by
  decide

/-- V4, under `LEA_SETS_CC` = true. -/
theorem test_lea_sets_cc :
    after { start 0x0001 [] [(0x8000, 0xE000)] with pc := 0x8000, params := { Params.spec with leaSetsCC := true } }
      (fun t => (t.reg 0, pcPsr t)) = some (0x8001, 0x8001, 0x0004) := by decide

/-- P1's step at 0x3006: `ST R0, RES` stores at 0x300B (R165). -/
theorem test_st :
    after { start 0x0002 [(0, 0x002A)] [(0x3006, 0x3004)] with pc := 0x3006 }
      (fun t => (t.memory.read 0x300B, pcPsr t)) = some (0x002A, 0x3007, 0x0002) := by decide

/-- P4's step at 0x3005, with the pointer to DDR at 0x300E: the character goes out (R166, R227). -/
theorem test_sti_ddr :
    after { start 0x0001 [(0, 0x0048)] [(0x3005, 0xB008), (0x300E, 0xFE06)] with pc := 0x3005 }
      (fun t => (t.output, t.ddr, t.memory.read 0xFE06)) = some ([0x48], 0x0048, 0x0000) := by decide

/-- V4: the store raises, and nothing is output. -/
theorem test_sti_access_violation :
    after (start 0x8002 [(6, 0xF000)] [(0x3000, 0xB000), (0x3001, 0xFE06), (0x0102, 0x1100)])
      (fun t => (t.output, frameAt 0x3000 t, t.pc)) = some ([], (0x8002, 0x3001), 0x1100) := by decide

/-- V4: clearing MCR bit 15 halts at the end of the step. -/
theorem test_str_mcr_halts :
    after (start 0x0002 [(1, 0xFFFE)] [(0x3000, 0x7040)]) (fun t => (t.mcr, t.engine, t.pc)) =
      some (0x0000, .halted, 0x3001) := by decide

/-- V4: only IE of KBSR is written. -/
theorem test_str_kbsr :
    after (start 0x0002 [(0, 0xFFFF), (1, 0xFE00)] [(0x3000, 0x7040)]) (fun t => t.kbsr) = some 0x4000 := by decide

/-- V5: not taken. -/
theorem test_br_not_taken :
    after (start 0x0000 [] [(0x3000, 0x0E05)]) pcPsr = some (0x3001, 0x0000) := by decide

/-- V5: taken, at the top of memory: PC wraps to 0x0000 and the offset brings it back. -/
theorem test_br_taken_wraps :
    after { start 0x0004 [] [(0xFFFF, 0x09FF)] with pc := 0xFFFF } pcPsr = some (0xFFFF, 0x0004) := by decide

/-- V5. -/
theorem test_jmp :
    after (start 0x8002 [(2, 0x0200)] [(0x3000, 0xC080)]) pcPsr = some (0x0200, 0x8002) := by decide

/-- V5: RET's word. -/
theorem test_ret :
    after (start 0x0002 [(7, 0x4567)] [(0x3000, 0xC1C0)]) pcPsr = some (0x4567, 0x0002) := by decide

/-- V5. -/
theorem test_jsr :
    after (start 0x0002 [] [(0x3000, 0x4FFF)]) (fun t => (t.reg 7, t.pc)) = some (0x3001, 0x3000) := by decide

/-- V5: the base is read before the link is written. -/
theorem test_jsrr_through_r7 :
    after (start 0x0002 [(7, 0x4000)] [(0x3000, 0x41C0)]) (fun t => (t.reg 7, t.pc)) = some (0x3001, 0x4000) := by
  decide

/-- W5, V6: TRAP from user mode. -/
theorem test_trap_user :
    after (start 0x8002 [(6, 0xF000)] [(0x3000, 0xF026), (0x0026, 0x1000)])
      (fun t => (t.savedUSP, t.reg 6, frameAt 0x3000 t, pcPsr t)) =
      some (0xF000, 0x2FFE, (0x8002, 0x3001), 0x1000, 0x0002) := by decide

/-- V6: the supervisor stack wraps over the ends of memory (D24). -/
theorem test_trap_stack_wraps :
    after (start 0x0002 [(6, 0x0001)] [(0x3000, 0xF030), (0x0030, 0x0500)])
      (fun t => (t.memory.readAt 0x0000, t.memory.readAt 0xFFFF, t.reg 6, t.pc)) =
      some (0x0002, 0x3001, 0xFFFF, 0x0500) := by decide

/-- V6: RTI to user mode. -/
theorem test_rti_to_user :
    after { start 0x0002 [(6, 0x2FFE)] [(0x3000, 0x8000), (0x2FFE, 0x3001), (0x2FFF, 0x8002)] with savedUSP := 0xFE00 }
      (fun t => (t.savedSSP, t.reg 6, pcPsr t)) = some (0x3000, 0xFE00, 0x3001, 0x8002) := by decide

/-- W6, V6: RTI in user mode. -/
theorem test_rti_user_mode :
    after (start 0x8002 [(6, 0xF000)] [(0x3000, 0x8000), (0x0100, 0x1000)])
      (fun t => (t.savedUSP, t.reg 6, frameAt 0x3000 t, pcPsr t)) =
      some (0xF000, 0x2FFE, (0x8002, 0x3001), 0x1000, 0x0002) := by decide

/-- V6: the reserved opcode, and in user mode an illegal word of opcode RTI. -/
theorem test_illegal :
    after (start 0x8004 [(6, 0xF000)] [(0x3000, 0xDFFF), (0x0101, 0x0700)]) (fun t => (frameAt 0x3000 t, pcPsr t)) =
      some ((0x8004, 0x3001), 0x0700, 0x0004) := by decide

/-- V6. -/
theorem test_illegal_before_privilege :
    after (start 0x8002 [(6, 0xF000)] [(0x3000, 0x8001), (0x0101, 0x0700)]) (fun t => (frameAt 0x3000 t, t.pc)) =
      some ((0x8002, 0x3001), 0x0700) := by decide

/-- PC after an instruction's own effect. -/
def pcAfter (i : Instr) (s : State) : Option Word :=
  match exec i s with
  | .next t => some t.pc
  | .fault _ => none
  | .refused _ => none

/-- The suffixed branches by R87: the first three on their flag, the rest on the one flag they do not name. -/
theorem test_suffixed_branches :
    pcAfter (.brn 5) (start 0x0004 [] []) = some 0x3005 ∧ pcAfter (.brz 5) (start 0x0002 [] []) = some 0x3005 ∧
    pcAfter (.brp 5) (start 0x0001 [] []) = some 0x3005 ∧ pcAfter (.brnz 5) (start 0x0001 [] []) = some 0x3000 ∧
    pcAfter (.brnp 5) (start 0x0002 [] []) = some 0x3000 ∧ pcAfter (.brzp 5) (start 0x0004 [] []) = some 0x3000 ∧
    pcAfter (.brnzp 5) (start 0x0000 [] []) = some 0x3000 := by decide

/-- The suffixed branches taken by each flag of a two-flag or three-flag mask. -/
theorem test_suffixed_branches_taken :
    pcAfter (.brnz 5) (start 0x0004 [] []) = some 0x3005 ∧ pcAfter (.brnz 5) (start 0x0002 [] []) = some 0x3005 ∧
    pcAfter (.brnp 5) (start 0x0004 [] []) = some 0x3005 ∧ pcAfter (.brnp 5) (start 0x0001 [] []) = some 0x3005 ∧
    pcAfter (.brzp 5) (start 0x0002 [] []) = some 0x3005 ∧ pcAfter (.brzp 5) (start 0x0001 [] []) = some 0x3005 ∧
    pcAfter (.brnzp 5) (start 0x0001 [] []) = some 0x3005 := by decide

/-- The trap aliases by R88 and R188: each goes to the handler its own entry names. -/
theorem test_trap_aliases :
    [Instr.getc, .out, .puts, .inp, .putsp, .halt].map (fun i => pcAfter i (start 0x0002 [(6, 0x2000)]
        [(0x20, 1), (0x21, 2), (0x22, 3), (0x23, 4), (0x24, 5), (0x25, 6)])) =
      [some 1, some 2, some 3, some 4, some 5, some 6] := by decide

/-- V7: a fetch in the device page reads no device. -/
theorem test_fetch_access_violation :
    after { start 0x8002 [(6, 0xF000)] [(0x0102, 0x1100)] with pc := 0xFE00 } (fun t => (frameAt 0x3000 t, t.pc)) =
      some ((0x8002, 0xFE01), 0x1100) := by decide

/-- V7: a supervisor fetch from KBDR clears READY. -/
theorem test_fetch_kbdr :
    after { start 0x0002 [] [] with pc := 0xFE02, kbdReady := true, kbdData := 0x21 } (fun t => (t.kbsr, t.pc)) =
      some (0x0000, 0xFE03) := by decide

/-- V7: an exception whose second push writes MCR halts the machine (UB20). -/
theorem test_exception_push_to_mcr :
    after (start 0x0002 [] [(0x3000, 0xD000), (0x0101, 0x0700)])
      (fun t => (t.memory.readAt 0xFFFF, t.mcr, t.engine, t.reg 6, t.pc)) =
      some (0x0002, 0x3001, .halted, 0xFFFE, 0x0700) := by decide

/-- V7: the interrupt is taken at the boundary of the step that enables it. -/
theorem test_interrupt_at_boundary :
    after { start 0x0002 [(0, 0x4000), (1, 0xFE00), (6, 0x2000)] [(0x3000, 0x7040), (0x0180, 0x1200)] with
        kbdReady := true, kbdData := 0x41 }
      (fun t => (t.kbsr, frameAt 0x2000 t, t.reg 6, pcPsr t)) =
      some (0xC000, (0x0002, 0x3001), 0x1FFE, 0x1200, 0x0402) := by decide

/-- V7: an interrupt from user mode. -/
theorem test_interrupt_from_user :
    after { start 0x8001 [(6, 0xF000)] [(0x3000, 0x1021), (0x0180, 0x1200)] with kbdReady := true, kbdIE := true }
      (fun t => (t.reg 0, t.savedUSP, frameAt 0x3000 t, pcPsr t)) =
      some (1, 0xF000, (0x8001, 0x3001), 0x1200, 0x0401) := by decide

/-- V8: a delivered character replaces an unread one. -/
theorem test_deliverChar :
    ({ start 0x0002 [] [] with kbdReady := true, kbdData := 0x41 }.deliverChar 0x42).peek 0xFE02 = 0x0042 ∧
    ((start 0x0002 [] []).deliverChar 0xC1).peek 0xFE02 = 0x00C1 := by decide

/-- V9: loads, one refused whole, and one over a device address. -/
theorem test_load :
    State.reset.load [⟨0x3000, [0xF025]⟩] = .ok { State.reset with memory := [(0x3000, 0xF025)] } ∧
    State.reset.load [⟨0xFFFF, [1, 2]⟩] = .error (.pastEnd 0xFFFF 2) ∧
    State.reset.load [⟨0xFE00, [0x8000]⟩] = .ok { State.reset with memory := [(0xFE00, 0x8000)] } ∧
    { State.reset with memory := [(0xFE00, 0x8000)] }.peek 0xFE00 = 0x0000 := by decide

/-- R143: the breakpoint set is kept rising and without repeats. -/
theorem test_setBreakpoint :
    (((State.reset.setBreakpoint 5).setBreakpoint 3).setBreakpoint 5).breakpoints = [3, 5] := by decide

/-- The host's question: a word placed where the reset machine fetches is the first instruction that runs. -/
theorem test_withFetchWord :
    after (State.reset.withFetchWord 16 0x1025) (fun t => (t.reg 0, pcPsr t)) = some (5, 0x0201, 0x0001) := by decide

/-! Witnesses: for each statement with hypotheses, values that meet all of them together, one for each clause. -/

/-- A supervisor state and a user state, ready to step. -/
def sup : State := start 0x0002 [(1, 0x4000), (6, 0x2000)] [(0x3000, 0xF026), (0x0026, 0x1000)]
def usr : State := start 0x8002 [(1, 0x4000), (6, 0xF000)] [(0x3000, 0x6240), (0x4000, 0x0005)]

theorem witness_DecodeOfEncodeIsTheInstruction :
    (Instr.illegal 0xD000).wellFormed .strict = true ∧ (Instr.brz (-256)).wellFormed .lenient = true := by decide

/-- A pattern without an integer operand, and one at both ends of its range and just past them. -/
theorem witness_EncoderRoundTrip :
    (Encoder.Pattern.jmp ≠ .fill ∧ Encoder.preconditions .jmp [.reg 7] = true ∧
      Encoder.Pattern.jmp.numericField = none) ∧
    (Encoder.Pattern.addI ≠ .fill ∧ Encoder.Pattern.addI.numericField = some .imm5 ∧
      ∀ v ∈ [-17, -16, 15, (16 : Int)], Encoder.preconditions .addI [.reg 0, .reg 7, .num v] = true ∧
        Encoder.lineInt [.reg 0, .reg 7, .num v] 0x3000 [] = some v) ∧
    Encoder.FieldName.imm5.legal = (-16, 15) := by decide

theorem witness_LabelEncodesAsItsDisplacement :
    Encoder.Pattern.ld.numericField = some .pcOffset9 ∧ Encoder.Pattern.jsr.numericField = some .pcOffset11 ∧
    List.lookup "X" [("X", 0x3100#16)] = some 0x3100#16 := by decide

theorem witness_UnresolvedLabelFails :
    Encoder.preconditions .ld [.reg 0, .lbl "X"] = true ∧ Encoder.Token.lbl "X" ∈ [.reg 0, .lbl "X"] ∧
    List.lookup "X" ([] : Encoder.LabelMap) = none := by decide

/-- The ends of `.FILL`'s range and just past them, and a label present and absent. -/
theorem witness_FillEncodesValuesAndAddresses :
    ((-32768 : Int) ≤ -32768 ∧ (-32768 : Int) ≤ 65535) ∧ (-32769 : Int) < -32768 ∧ (65535 : Int) < 65536 ∧
    List.lookup "X" [("X", 0x4321#16)] = some 0x4321#16 ∧ List.lookup "Y" [("X", 0x4321#16)] = none := by decide

/-- R101 met, at both ends of the register range and with a label. -/
theorem witness_MeetsPreconditions :
    Encoder.MeetsPreconditions .ldr [.reg 0, .reg 7, .num 99] ∧ Encoder.MeetsPreconditions .br [.lbl "X"] ∧
    Encoder.MeetsPreconditions .rti [] := by
  refine ⟨⟨by decide, ?_, ?_⟩, ⟨by decide, ?_, ?_⟩, ⟨by decide, ?_, ?_⟩⟩ <;>
    simp [Encoder.Pattern.slots, Encoder.slotsRRO6, Encoder.slotsBR, Encoder.slotServed]

/-- R101 broken: by a register number, by a token's kind, and by the number of operands. -/
theorem witness_EncoderRefusesExactlyBrokenPreconditions :
    ¬ Encoder.MeetsPreconditions .jmp [.reg 8] ∧ ¬ Encoder.MeetsPreconditions .jmp [.num 1] ∧
    ¬ Encoder.MeetsPreconditions .jmp [.reg 1, .reg 2] := by
  refine ⟨fun h => ?_, fun h => ?_, fun h => ?_⟩
  · simpa using h.registers 8
  · simpa [Encoder.slotServed] using h.kinds (.regS 8 6 0) (by decide)
  · exact absurd h.count (by decide)

/-- What the encoder answers on such lines. -/
theorem test_encoder_refuses :
    Encoder.encodeLine .jmp [.reg 7] 0x3000 [] = .word 0xC1C0 ∧ Encoder.encodeLine .jmp [.reg 8] 0x3000 [] = .refused ∧
    Encoder.encodeLine .jmp [.num 1] 0x3000 [] = .refused ∧
    Encoder.encodeLine .jmp [.reg 1, .reg 2] 0x3000 [] = .refused := by decide

/-- Two canonical memories that read alike. -/
theorem witness_MemoryReadsLastWrite :
    Memory.wf [(0, 1), (65535, 2)] = true ∧ (Memory.write [(0, 1)] 65535 2) = [(0, 1), (65535, 2)] := by decide

/-- For MemReadRoutesEveryAddress and MemWriteRoutesEveryAddress: each kind of address a read or a write can go to, in a canonical memory. -/
theorem witness_routes :
    sup.memory.wf = true ∧ (0xFE01#16 ∉ [0xFE00#16, 0xFE02#16, 0xFE04#16, 0xFE06#16, 0xFFFE#16]) ∧
    (0xFFFF#16 ∉ [0xFE00#16, 0xFE02#16, 0xFE04#16, 0xFE06#16, 0xFFFE#16]) ∧
    sup.params.displayReady = .always ∧
    ({ sup with params := { Params.spec with displayReady := .draw } } : State).params.displayReady = .draw := by
  decide

theorem witness_OnlyKbdrReadsHaveSideEffects :
    sup.params.displayReady = .always ∧ (0xFE00#16 ≠ 0xFE02#16) := by decide

/-- An access allowed and an access denied, at the window's ends: for LD, LDI, LDR, ST, STI and STR. -/
theorem witness_accesses :
    usr.memory.wf = true ∧ usr.violates 0x3000 = false ∧ usr.violates 0xFDFF = false ∧
    usr.violates 0x2FFF = true ∧ usr.violates 0xFE00 = true ∧ sup.memory.wf = true ∧ sup.violates 0xFE00 = false := by
  decide

theorem witness_LeaWritesTheAddress :
    sup.params.leaSetsCC = false ∧
    ({ sup with params := { Params.spec with leaSetsCC := true } } : State).params.leaSetsCC = true := by decide

theorem witness_StoreIsSeenByTheNextFetch :
    usr.memory.wf = true ∧
    ({ usr with pc := 0x3FFF } : State).violates 0x3FFF = false ∧
    0x3FFF#16 ∉ [0xFE00#16, 0xFE02#16, 0xFE04#16, 0xFE06#16, 0xFFFE#16] ∧
    ({ usr with pc := 0x3FFF } : State).reg 1 + (-1 : BitVec 6).signExtend 16 = 0x3FFF ∧
    (let s := { usr with pc := 0x3FFF, memory := usr.memory.write 0x4000 0x3FFF }
     s.memory.wf = true ∧ s.violates (s.pc + (1 : BitVec 9).signExtend 16) = false ∧
       (memRead (s.pc + (1 : BitVec 9).signExtend 16) s).1 = s.pc) := by decide

/-- Z set: taken with mask 010, not taken with mask 101. -/
theorem witness_BrBranchesOnTheFlags :
    (true = true ∧ sup.psr.z = true) ∧ ¬((true = true ∧ sup.psr.n = true) ∨ (true = true ∧ sup.psr.p = true)) := by
  decide

/-- For TrapEntersThroughItsVector, TrapAliasesEnterTheirServices, RtiPopsPcAndPsr, RtiInUserModeIsAPrivilegeViolation,
IllegalWordTakesIllegalOpcode and ExceptionAndInterruptEntry: both modes, memory canonical. -/
theorem witness_system_modes :
    sup.psr.mode = .supervisor ∧ sup.memory.wf = true ∧ usr.psr.mode = .user ∧ usr.memory.wf = true := by decide

/-- RTI goes to each mode from some supervisor state. -/
theorem witness_RtiPopsPcAndPsr :
    (returnFromEntry (start 0x0002 [(6, 0x2000)] [(0x2001, 0x8002)])).psr.mode = .user ∧
    (returnFromEntry (start 0x0002 [(6, 0x2000)] [(0x2001, 0x0402)])).psr.mode = .supervisor := by decide

/-- The service at once returns: from user mode and from supervisor mode. -/
theorem witness_RtiUndoesTrapEntry :
    ∀ s ∈ [usr, sup],
      s.memory.wf = true ∧ isDevice (s.entryStack - 1) = false ∧ isDevice (s.entryStack - 2) = false ∧
      (trapEntry 0x26 s).psr.mode = .supervisor := by decide

theorem witness_trap_completes : exec (.trap 0x26) usr = .next (trapEntry 0x26 usr) := rfl

/-- For OnlyFlagSettersAndRtiChangeFlags, PriorityChangesOnlyAtInterruptAndRti, ModeChangesOnlyThroughEntryAndRti and
SavedStackPointersChangeOnlyBySwaps: a flag-setter, an entry from user mode, and an RTI to user mode. -/
theorem witness_exec_next :
    (∃ t, exec (.addImm 0 0 1) sup = .next t) ∧
    (∃ t, exec (.ldr 1 1 0) usr = .next t) ∧ usr.violates (usr.reg 1 + (0 : BitVec 6).signExtend 16) = false ∧
    (∃ t, exec (.ld 1 (-2)) usr = .next t) ∧ usr.violates (usr.pc + (-2 : BitVec 9).signExtend 16) = true ∧
    (∃ t, exec (.trap 0x26) usr = .next t ∧ t.psr.mode = .supervisor) ∧
    ∃ t, exec .rti (start 0x0002 [(6, 0x2000)] [(0x2001, 0x8002)]) = .next t ∧ t.psr.mode = .user :=
  ⟨⟨_, rfl⟩, ⟨_, rfl⟩, by decide, ⟨_, rfl⟩, by decide, ⟨_, rfl, by decide⟩, ⟨_, rfl, by decide⟩⟩

/-- The mode of a step's next state, and the mode its instruction left it at. -/
def modesAfter (s : State) : Option (Mode × Mode) :=
  match fetchAndExecute s, step s with
  | .next u, .next t => some (u.psr.mode, t.psr.mode)
  | .next _, .fault _ | .next _, .refused _ | .fault _, _ | .refused _, _ => none

/-- The ways a step changes the mode, for the step clauses of PriorityChangesOnlyAtInterruptAndRti,
ModeChangesOnlyThroughEntryAndRti and SavedStackPointersChangeOnlyBySwaps: RTI to user mode; an access violation of the
fetch, without and with the interrupt; the interrupt alone, after an instruction that stays in user mode. -/
theorem witness_step_modes :
    modesAfter (start 0x0002 [(6, 0x2000)] [(0x3000, 0x8000), (0x2001, 0x8002)]) = some (.user, .user) ∧
    modesAfter { usr with pc := 0x2FFF } = some (.supervisor, .supervisor) ∧
    interruptPending (fetchAccessViolation { usr with pc := 0x2FFF, kbdReady := true, kbdIE := true }) = true ∧
    modesAfter { usr with kbdReady := true, kbdIE := true } = some (.user, .supervisor) := by decide

/-- A step from user mode to user mode, the load of 0x4000. -/
theorem witness_UserStepsTouchNothingProtected :
    usr.memory.wf = true ∧ usr.params.shieldsDevices = true ∧ usr.psr.mode = .user ∧
    after usr (fun t => t.psr.mode) = some .user := by decide

/-- Two states that differ where a user program cannot see, and a load both run. -/
theorem witness_UserInstructionsSeeNothingProtected :
    SameToUser usr { usr with memory := usr.memory.write 0x2FFF 7, savedSSP := 0x1000, kbdReady := true } ∧
    (usr.memory.write 0x2FFF 7).wf = true ∧
    ∃ t, exec (.ldr 1 1 0) usr = .next t ∧ t.psr.mode = .user := by
  refine ⟨⟨rfl, rfl, rfl, rfl, fun a h => ?_⟩, by decide, ⟨_, rfl, by decide⟩⟩
  have hne : a ≠ 0x2FFF := by
    rintro rfl
    revert h
    decide
  exact (Memory.read_write (by decide) 0x2FFF 7 a).trans (if_neg hne)

theorem witness_StepRunsTheDecodedInstruction :
    usr.engine = .running ∧ usr.violates usr.pc = false ∧ memRead usr.pc usr = (0x6240, usr) ∧
    decode usr.params.decodeFixedBits 0x6240 = .ldr 1 1 0 := by decide

theorem witness_FetchOutsideWindowTakesAcv :
    ({ usr with pc := 0x2FFF } : State).engine = .running ∧ ({ usr with pc := 0x2FFF } : State).violates 0x2FFF = true ∧
    ({ usr with pc := 0x2FFF } : State).memory.wf = true := by decide

theorem witness_ClearedClockHaltsAtTheBoundary :
    ({ sup with mcr := 0x7FFF } : State).mcr.getLsbD 15 = false := by decide

/-- Pending, and not pending with PL at the interrupt's own level. -/
theorem witness_InterruptIsTakenExactlyWhenPending :
    sup.mcr.getLsbD 15 = true ∧
    (let s : State := { sup with kbdReady := true, kbdIE := true }
     s.kbdReady = true ∧ s.kbdIE = true ∧ s.psr.pl.toNat < s.params.kbdIntPriority.toNat) ∧
    ¬((Psr.unpack 0x0402).pl.toNat < Params.spec.kbdIntPriority.toNat) := by decide

theorem witness_NoStepRunsWhileStoppedOrHalted :
    State.reset.engine = .stopped ∧ ({ sup with engine := .halted } : State).engine = .halted := by decide

/-- For EveryStepKeepsWellFormedness, StepsLeaveHostOwnedStateAlone and HostActionsKeepWellFormedness: running, at the
end of a budget, and halted. -/
theorem witness_EveryStepKeepsWellFormedness :
    sup.wf = true ∧ (∃ t, step sup = .next t) ∧
    ({ sup with engine := .singleStep, budget := some 1 } : State).wf = true ∧
    ({ sup with engine := .halted, mcr := 0 } : State).wf = true :=
  ⟨by decide, ⟨_, rfl⟩, by decide, by decide⟩

/-- A file that just fits and one a word too long. -/
theorem witness_LoadWritesBlocksInOrder :
    State.reset.memory.wf = true ∧ (⟨0xFFFF, [1]⟩ : Block).fits = true ∧ 0x10000 < 65535 + [1, 2].length := by
  decide

theorem witness_HostControlActions :
    State.reset.engine = .stopped ∧ 1 ≤ 1 ∧ sup.engine = .running ∧ sup.params.displayReady = .always := by decide

/-- R146: an inspection of KBDR shows the character, and a read by the engine also clears READY. -/
theorem test_inspect :
    (let s := { sup with kbdReady := true, kbdData := 0x61 }
     s.inspect 0xFE02 = 0x0061 ∧ (memRead 0xFE02 s).1 = 0x0061 ∧ (memRead 0xFE02 s).2.kbdReady = false) := by decide

theorem witness_BringUpLoadsTheImageThenTheUser :
    ∃ s, bringUp Params.spec ⟨State.reset.regs, 0, 0⟩ ⟨[1, 2], [3]⟩ [] = .ok s := ⟨_, rfl⟩

end Sys2Proof.Tests
end

section
/-! What an instruction and a step can do, said once: the layer the proofs about all instructions stand on. -/

namespace Sys2Proof.Machine

/-! The fields that only the entry, the return and the host change. -/

/-- From `s` to `t` the privilege state and what the host owns are the same. Registers, PC, flags, memory and device
registers may differ. -/
structure SameContext (s t : State) : Prop where
  mode : t.psr.mode = s.psr.mode
  pl : t.psr.pl = s.psr.pl
  savedSSP : t.savedSSP = s.savedSSP
  savedUSP : t.savedUSP = s.savedUSP
  kbdData : t.kbdData = s.kbdData
  engine : t.engine = s.engine
  breakpoints : t.breakpoints = s.breakpoints
  budget : t.budget = s.budget
  stopRequest : t.stopRequest = s.stopRequest
  params : t.params = s.params

theorem SameContext.refl (s : State) : SameContext s s := by constructor <;> rfl

theorem SameContext.trans {s t u : State} (h : SameContext s t) (h' : SameContext t u) : SameContext s u where
  mode := h'.mode.trans h.mode
  pl := h'.pl.trans h.pl
  savedSSP := h'.savedSSP.trans h.savedSSP
  savedUSP := h'.savedUSP.trans h.savedUSP
  kbdData := h'.kbdData.trans h.kbdData
  engine := h'.engine.trans h.engine
  breakpoints := h'.breakpoints.trans h.breakpoints
  budget := h'.budget.trans h.budget
  stopRequest := h'.stopRequest.trans h.stopRequest
  params := h'.params.trans h.params

theorem sameContext_memRead (a : Word) (s : State) : SameContext s (memRead a s).2 := by constructor <;> simp

theorem sameContext_memWrite (a v : Word) (s : State) : SameContext s (memWrite a v s) := by constructor <;> simp

theorem sameContext_writeResult (dr : Reg) (v : Word) (s : State) : SameContext s (writeResult dr v s) := by
  constructor <;> rfl

theorem sameContext_branch (n z p : Bool) (off : BitVec 9) (s : State) : SameContext s (branch n z p off s) := by
  unfold branch
  split <;> constructor <;> rfl

theorem sameContext_jumpThrough (baseR : Reg) (s : State) : SameContext s (jumpThrough baseR s) := by
  constructor <;> rfl

theorem sameContext_callTo (target : Word) (s : State) : SameContext s (callTo target s) := by constructor <;> rfl

/-! The shared endings of loads and stores. -/

@[simp] theorem violates_memRead (a b : Word) (s : State) : (memRead a s).2.violates b = s.violates b := by
  simp [State.violates]

theorem loadFrom_eq (dr : Reg) (ea : Word) (s : State) :
    loadFrom dr ea s = .next (if s.violates ea then exceptionEntry .accessViolation s
      else writeResult dr (memRead ea s).1 (memRead ea s).2) := by
  unfold loadFrom checked raise
  split <;> rfl

theorem storeTo_eq (sr : Reg) (ea : Word) (s : State) :
    storeTo sr ea s = .next (if s.violates ea then exceptionEntry .accessViolation s
      else memWrite ea (s.reg sr) s) := by
  unfold storeTo checked raise
  split <;> rfl

theorem throughPointer_eq (pa : Word) (s : State) (access : Word → State → Result) :
    throughPointer pa s access = if s.violates pa then .next (exceptionEntry .accessViolation s)
      else access (memRead pa s).1 (memRead pa s).2 := rfl

/-! What an instruction can do. -/

/-- The states an instruction that began in `s` may raise an exception from: `s`, or what the pointer read of LDI and
STI left (R169). -/
inductive PointerRead (s : State) : State → Prop
  | none : PointerRead s s
  | read (pa : Word) : PointerRead s (memRead pa s).2

namespace PointerRead
variable {s u : State}

theorem sameContext : PointerRead s u → SameContext s u
  | none => .refl s
  | read pa => sameContext_memRead pa s

theorem psr : PointerRead s u → u.psr = s.psr
  | none => rfl
  | read pa => memRead_psr pa s

theorem reg (r : Reg) : PointerRead s u → u.reg r = s.reg r
  | none => rfl
  | read pa => memRead_reg pa s r

end PointerRead

/-- The four ways an instruction `i` can lead from `s` to `t` (R126, R130): it completes in the mode it began in, enters
a trap, raises an exception, or is an RTI that returns. -/
inductive ExecOutcome (i : Instr) (s t : State) : Prop
  | completes (h : SameContext s t)
  | traps (v : BitVec 8) (ht : t = trapEntry v s)
  | raises (e : Exception) (u : State) (hu : PointerRead s u) (ht : t = exceptionEntry e u)
  | returns (hi : i = .rti) (hmode : s.psr.mode = .supervisor) (ht : t = returnFromEntry s)

section
variable {i : Instr} {s t u : State}

/-- The load, from the state the pointer read left or from `s` itself. -/
theorem ExecOutcome.of_loadFrom {dr : Reg} {ea : Word} (hu : PointerRead s u) (h : loadFrom dr ea u = .next t) :
    ExecOutcome i s t := by
  rw [loadFrom_eq] at h
  obtain rfl := Host.Outcome.next.inj h
  split
  · exact .raises _ u hu rfl
  · exact .completes (hu.sameContext.trans ((sameContext_memRead ea u).trans (sameContext_writeResult dr _ _)))

/-- The store, from the state the pointer read left or from `s` itself. -/
theorem ExecOutcome.of_storeTo {sr : Reg} {ea : Word} (hu : PointerRead s u) (h : storeTo sr ea u = .next t) :
    ExecOutcome i s t := by
  rw [storeTo_eq] at h
  obtain rfl := Host.Outcome.next.inj h
  split
  · exact .raises _ u hu rfl
  · exact .completes (hu.sameContext.trans (sameContext_memWrite ea _ u))

/-- LDI and STI: the access runs from the state the pointer read left. -/
theorem ExecOutcome.of_throughPointer {pa : Word} {access : Word → State → Result}
    (haccess : ∀ ea u, PointerRead s u → access ea u = .next t → ExecOutcome i s t)
    (h : throughPointer pa s access = .next t) : ExecOutcome i s t := by
  rw [throughPointer_eq] at h
  split at h
  · obtain rfl := Host.Outcome.next.inj h
    exact .raises _ s .none rfl
  · exact haccess _ _ (.read pa) h

theorem execRti_outcome (h : execRti s = .next t) : ExecOutcome .rti s t := by
  unfold execRti at h
  split at h
  · exact .raises _ s .none (Host.Outcome.next.inj h).symm
  · next hmode => exact .returns rfl hmode (Host.Outcome.next.inj h).symm

theorem execLea_outcome {dr : Reg} {off : BitVec 9} (h : execLea dr off s = .next t) : ExecOutcome i s t := by
  obtain rfl := Host.Outcome.next.inj h
  refine .completes ?_
  split <;> constructor <;> rfl

/-- What every instruction can do, over all instructions and states. -/
theorem exec_outcome (h : exec i s = .next t) : ExecOutcome i s t := by
  cases i with
  | addReg | addImm | andReg | andImm | not =>
    obtain rfl := Host.Outcome.next.inj h
    exact .completes (sameContext_writeResult _ _ s)
  | br | brn | brz | brp | brnz | brnp | brzp | brnzp =>
    obtain rfl := Host.Outcome.next.inj h
    exact .completes (sameContext_branch _ _ _ _ s)
  | jmp | ret =>
    obtain rfl := Host.Outcome.next.inj h
    exact .completes (sameContext_jumpThrough _ s)
  | jsr | jsrr =>
    obtain rfl := Host.Outcome.next.inj h
    exact .completes (sameContext_callTo _ s)
  | ld | ldr => exact .of_loadFrom .none h
  | st | str => exact .of_storeTo .none h
  | ldi => exact .of_throughPointer (fun _ _ hu => .of_loadFrom hu) h
  | sti => exact .of_throughPointer (fun _ _ hu => .of_storeTo hu) h
  | lea => exact execLea_outcome h
  | rti => exact execRti_outcome h
  | trap | getc | out | puts | inp | putsp | halt => exact .traps _ (Host.Outcome.next.inj h).symm
  | illegal => exact .raises _ s .none (Host.Outcome.next.inj h).symm

theorem exec_params (h : exec i s = .next t) : t.params = s.params := by
  cases exec_outcome h with
  | completes hc => exact hc.params
  | traps v ht => simp [ht, trapEntry]
  | raises e u hu ht => simp [ht, exceptionEntry, hu.sameContext.params]
  | returns _ _ ht => simp [ht]

end

/-! What a step can do. -/

@[simp] theorem fetch_psr (s : State) : (fetch s).2.psr = s.psr := memRead_psr s.pc s
@[simp] theorem fetch_savedSSP (s : State) : (fetch s).2.savedSSP = s.savedSSP := memRead_savedSSP s.pc s
@[simp] theorem fetch_savedUSP (s : State) : (fetch s).2.savedUSP = s.savedUSP := memRead_savedUSP s.pc s
@[simp] theorem fetch_params (s : State) : (fetch s).2.params = s.params := memRead_params s.pc s
@[simp] theorem fetch_reg (s : State) (r : Reg) : (fetch s).2.reg r = s.reg r := memRead_reg s.pc s r

/-- A step that runs: fetch, decode and execute, then the boundary (R127). -/
theorem step_cases {s t : State} (h : step s = .next t) :
    (s.active = false ∧ t = s) ∨ (s.active = true ∧ ∃ u, fetchAndExecute s = .next u ∧ t = boundary u) := by
  unfold step at h
  split at h
  · next hactive =>
    refine .inr ⟨hactive, ?_⟩
    cases hu : fetchAndExecute s with
    | next u =>
      rw [hu] at h
      exact ⟨u, rfl, (Host.Outcome.next.inj h).symm⟩
    | fault f => cases f
    | refused r => rw [hu] at h; cases h
  · next hactive => exact .inl ⟨Bool.eq_false_iff.mpr hactive, (Host.Outcome.next.inj h).symm⟩

/-- What comes before the boundary: the fetch's own access violation, or the decoded instruction (R127, R128). -/
theorem fetchAndExecute_cases {s u : State} (hactive : s.active = true) (h : fetchAndExecute s = .next u) :
    (fetchViolates s = true ∧ u = fetchAccessViolation s) ∨
      ∃ i, StepExecutes s i ∧ exec i (fetch s).2 = .next u := by
  unfold fetchAndExecute at h
  split at h
  · next hviolates => exact .inl ⟨hviolates, (Host.Outcome.next.inj h).symm⟩
  · next hviolates => exact .inr ⟨_, ⟨hactive, Bool.eq_false_iff.mpr hviolates, rfl⟩, h⟩

theorem fetchAndExecute_params {s u : State} (hactive : s.active = true) (h : fetchAndExecute s = .next u) :
    u.params = s.params := by
  obtain ⟨-, rfl⟩ | ⟨i, -, hexec⟩ := fetchAndExecute_cases hactive h
  · simp [fetchAccessViolation, exceptionEntry]
  · simpa using exec_params hexec

end Sys2Proof.Machine
end

section
/-! The state's own values: reset, PSR's layout and SetCC (10_state.md R25, R27, R41). -/

namespace Sys2Proof.Machine

/-- Settles O10: every value is read off the reset state. -/
theorem resetStateIsAsGiven : Obligations.ResetStateIsAsGiven := by
  unfold Obligations.ResetStateIsAsGiven
  refine ⟨rfl, ?_, rfl, ?_, rfl, ?_, rfl, rfl, rfl, rfl, fun _ => rfl⟩ <;> decide

/-- Settles O54: the invariant is a Boolean, evaluated at the reset state. -/
theorem resetStateIsWellFormed : Obligations.ResetStateIsWellFormed := by
  unfold Obligations.ResetStateIsWellFormed
  decide

/-- `U` is 1 exactly in user mode (R25). -/
theorem Mode.bit_eq (m : Mode) : m.bit = decide (m = .user) := by cases m <;> rfl

@[simp] theorem Mode.bit_ofBit (b : Bool) : (Mode.ofBit b).bit = b := by cases b <;> rfl

/-- What each bit of the packed PSR is (R25). -/
theorem Psr.getLsbD_pack (q : Psr) {i : Nat} (hi : i < 16) :
    q.pack.getLsbD i =
      if i < 3 then [q.p, q.z, q.n].getD i false
      else if i < 8 then false
      else if i < 11 then q.pl.getLsbD (i - 8)
      else (decide (i = 15) && q.mode.bit) := by
  unfold Psr.pack
  simp only [BitVec.getLsbD_append]
  interval_cases i <;> simp

/-- PL's bits and the two reserved runs of bits (R25). -/
theorem Psr.extractLsb'_pack (q : Psr) :
    q.pack.extractLsb' 11 4 = 0#4 ∧ q.pack.extractLsb' 8 3 = q.pl ∧ q.pack.extractLsb' 3 5 = 0#5 := by
  refine ⟨?_, ?_, ?_⟩ <;> ext i hi <;> rw [BitVec.getElem_extractLsb', q.getLsbD_pack (by omega)] <;>
    interval_cases i <;> simp

/-- Unpacking and packing a word clears its reserved bits and no other (R189). -/
theorem Psr.pack_unpack (w : Word) : (Psr.unpack w).pack = w &&& 0x8707 := by
  apply BitVec.eq_of_getLsbD_eq
  intro i hi
  rw [Psr.getLsbD_pack _ hi]
  interval_cases i <;> simp [Psr.unpack]

/-- Settles O11, bit by bit. -/
theorem psrLayout : Obligations.PsrLayout := by
  unfold Obligations.PsrLayout
  refine ⟨fun q => ?_, Psr.pack_unpack⟩
  obtain ⟨h11, h8, h3⟩ := q.extractLsb'_pack
  refine ⟨?_, h11, h8, h3, ?_, ?_, ?_⟩ <;> rw [q.getLsbD_pack (by decide)]
  · exact q.mode.bit_eq
  all_goals rfl

/-- Settles O12: each flag's test is the sign or the zero of the signed reading. -/
theorem setCCSetsExactlyOneFlag : Obligations.SetCCSetsExactlyOneFlag := by
  unfold Obligations.SetCCSetsExactlyOneFlag
  intro q v
  have hneg : v.msb = true ↔ v.toInt < 0 := by simp [BitVec.msb_eq_toInt]
  have hzero : v = 0 ↔ v.toInt = 0 := by rw [← BitVec.toInt_inj]; rfl
  refine ⟨hneg, ?_, ?_, rfl, rfl⟩
  · simpa using hzero
  · rw [Psr.setCC_p, Bool.and_eq_true, bne_iff_ne, ne_eq, hzero, Bool.not_eq_true', ← Bool.not_eq_true, hneg]
    omega

end Sys2Proof.Machine
end

section
/-! The flags, the priority level and the saved stack pointers over all instructions and steps (10_state.md R22, R24,
R28, R30). -/

namespace Sys2Proof.Machine

/-! The flags. -/

/-- The three flags of `t` are those of `s`. -/
def SameFlags (s t : State) : Prop := t.psr.n = s.psr.n ∧ t.psr.z = s.psr.z ∧ t.psr.p = s.psr.p

/-- Exactly one of the three flags is 1 (R27). -/
def OneFlag (t : State) : Prop := [t.psr.n, t.psr.z, t.psr.p].count true = 1

theorem SameFlags.of_psr_eq {s t : State} (h : t.psr = s.psr) : SameFlags s t := by simp [SameFlags, h]

theorem sameFlags_enter (tableEntry : Word) (pl : BitVec 3) (s : State) : SameFlags s (enter tableEntry pl s) := by
  simp [SameFlags]

theorem oneFlag_setCC (v : Word) (s : State) : OneFlag (s.setCC v) := by
  rw [OneFlag, State.setCC_psr, Psr.setCC_n, Psr.setCC_z, Psr.setCC_p]
  by_cases hv : v = 0
  · subst hv; rfl
  · rw [bne, beq_false_of_ne hv]
    cases v.msb <;> rfl

theorem branch_psr (n z p : Bool) (off : BitVec 9) (s : State) : (branch n z p off s).psr = s.psr := by
  unfold branch
  split <;> rfl

section
variable {s t : State}

theorem loadFrom_flags {dr : Reg} {ea : Word} (h : loadFrom dr ea s = .next t) :
    if s.violates ea then SameFlags s t else OneFlag t := by
  rw [loadFrom_eq] at h
  obtain rfl := Host.Outcome.next.inj h
  split
  · exact sameFlags_enter _ _ s
  · exact oneFlag_setCC _ _

theorem loadThroughPointer_flags {dr : Reg} {pa : Word} (h : throughPointer pa s (loadFrom dr) = .next t) :
    if s.violates pa || s.violates (memRead pa s).1 then SameFlags s t else OneFlag t := by
  rw [throughPointer_eq] at h
  cases hpa : s.violates pa
  · rw [if_neg (by simp [hpa])] at h
    simpa [SameFlags] using loadFrom_flags h
  · rw [if_pos hpa] at h
    obtain rfl := Host.Outcome.next.inj h
    exact sameFlags_enter _ _ s

theorem storeTo_flags {sr : Reg} {ea : Word} (h : storeTo sr ea s = .next t) : SameFlags s t := by
  rw [storeTo_eq] at h
  obtain rfl := Host.Outcome.next.inj h
  split
  · exact sameFlags_enter _ _ s
  · exact .of_psr_eq (memWrite_psr ea _ s)

theorem storeThroughPointer_flags {sr : Reg} {pa : Word} (h : throughPointer pa s (storeTo sr) = .next t) :
    SameFlags s t := by
  rw [throughPointer_eq] at h
  split at h
  · obtain rfl := Host.Outcome.next.inj h
    exact sameFlags_enter _ _ s
  · simpa [SameFlags] using storeTo_flags h

theorem execLea_flags {dr : Reg} {off : BitVec 9} (h : execLea dr off s = .next t) :
    if s.params.leaSetsCC then OneFlag t else t.psr = s.psr := by
  obtain rfl := Host.Outcome.next.inj h
  split
  · exact oneFlag_setCC _ _
  · rfl

end

/-- Settles O41, one group of instructions at a time. -/
theorem onlyFlagSettersAndRtiChangeFlags : Obligations.OnlyFlagSettersAndRtiChangeFlags := by
  unfold Obligations.OnlyFlagSettersAndRtiChangeFlags
  intro i s t h
  cases i with
  | addReg | addImm | andReg | andImm | not =>
    obtain rfl := Host.Outcome.next.inj h
    exact oneFlag_setCC _ _
  | ld | ldr => exact loadFrom_flags h
  | ldi => exact loadThroughPointer_flags h
  | lea => exact execLea_flags h
  | rti => trivial
  | st | str => exact storeTo_flags h
  | sti => exact storeThroughPointer_flags h
  | br | brn | brz | brp | brnz | brnp | brzp | brnzp =>
    obtain rfl := Host.Outcome.next.inj h
    exact SameFlags.of_psr_eq (branch_psr _ _ _ _ s)
  | jmp | ret | jsr | jsrr =>
    obtain rfl := Host.Outcome.next.inj h
    exact SameFlags.of_psr_eq rfl
  | trap | getc | out | puts | inp | putsp | halt | illegal =>
    obtain rfl := Host.Outcome.next.inj h
    exact sameFlags_enter _ _ s

/-! The priority level. -/

/-- Only RTI changes the level during an instruction (R30). -/
theorem exec_pl {i : Instr} {s t : State} (hi : i ≠ .rti) (h : exec i s = .next t) : t.psr.pl = s.psr.pl := by
  cases exec_outcome h with
  | completes hc => exact hc.pl
  | traps v ht => simp [ht, trapEntry]
  | raises e u hu ht => simp [ht, exceptionEntry, hu.psr]
  | returns hrti => exact absurd hrti hi

/-- The boundary sets the level only by taking the interrupt (R213). -/
theorem boundary_pl (s : State) :
    (boundary s).psr.pl = s.psr.pl ∨
      (interruptPending s = true ∧ (boundary s).psr.pl = s.params.kbdIntPriority) := by
  obtain ⟨-, hb⟩ | ⟨-, hpending, hb⟩ | ⟨-, -, hb⟩ := boundary_cases s
  · exact .inl (by rw [hb])
  · exact .inr ⟨hpending, by simp [hb, interruptEntry]⟩
  · exact .inl (by simp [hb])

/-- Before the boundary only an executed RTI changes the level. -/
theorem fetchAndExecute_pl {s u : State} (hactive : s.active = true) (h : fetchAndExecute s = .next u) :
    u.psr.pl = s.psr.pl ∨ StepExecutes s .rti := by
  obtain ⟨-, rfl⟩ | ⟨i, hi, hexec⟩ := fetchAndExecute_cases hactive h
  · exact .inl (by simp [fetchAccessViolation, exceptionEntry])
  · by_cases hrti : i = .rti
    · exact .inr (hrti ▸ hi)
    · exact .inl (by simpa using exec_pl hrti hexec)

/-- Settles O42: a step's level is the instruction's or the interrupt's. -/
theorem priorityChangesOnlyAtInterruptAndRti : Obligations.PriorityChangesOnlyAtInterruptAndRti := by
  unfold Obligations.PriorityChangesOnlyAtInterruptAndRti
  refine ⟨fun i s t hi h => exec_pl hi h, boundary_pl, fun s t h => ?_⟩
  obtain ⟨-, rfl⟩ | ⟨hactive, u, hu, rfl⟩ := step_cases h
  · exact .inl rfl
  obtain hsame | ⟨hpending, hset⟩ := boundary_pl u
  · rw [hsame]
    exact (fetchAndExecute_pl hactive hu).imp_right .inl
  · exact .inr (.inr ⟨u, hu, hpending, hset.trans (by rw [fetchAndExecute_params hactive hu])⟩)

/-! The saved stack pointers. -/

theorem State.reg_withPsr (s : State) (q : Psr) (r : Reg) : ({ s with psr := q } : State).reg r = s.reg r := rfl

theorem State.reg_withPc (s : State) (a : Word) (r : Reg) : ({ s with pc := a } : State).reg r = s.reg r := rfl

/-- The two pops of a return raise R6 by 2 (R189). -/
theorem pop_pop_reg_sp (s : State) : (pop { (pop s).2 with pc := (pop s).1 }).2.reg regSP = s.reg regSP + 2 := by
  rw [pop_reg, if_pos rfl, State.reg_withPc, pop_reg, if_pos rfl, BitVec.add_assoc]
  rfl

/-- A return to user mode saves R6 as the two pops left it; a return to supervisor mode saves nothing (R22, R189). -/
theorem returnFromEntry_savedSSP (s : State) :
    (returnFromEntry s).savedSSP =
      if (returnFromEntry s).psr.mode = .user then s.reg regSP + 2 else s.savedSSP := by
  rw [returnFromEntry_eq, switchToRestoredMode_savedSSP, switchToRestoredMode_psr, State.reg_withPsr, pop_pop_reg_sp]
  simp

section
variable {i : Instr} {s t u : State}

/-- Only a return to user mode changes SavedSSP (R28). -/
theorem exec_savedSSP (h : exec i s = .next t) :
    t.savedSSP = s.savedSSP ∨
      (i = .rti ∧ s.psr.mode = .supervisor ∧ t.psr.mode = .user ∧ t.savedSSP = s.reg regSP + 2) := by
  cases exec_outcome h with
  | completes hc => exact .inl hc.savedSSP
  | traps v ht => exact .inl (by simp [ht, trapEntry])
  | raises e u hu ht => exact .inl (by simp [ht, exceptionEntry, hu.sameContext.savedSSP])
  | returns hi hmode ht =>
    subst ht
    rw [returnFromEntry_savedSSP]
    split
    · next huser => exact .inr ⟨hi, hmode, huser, rfl⟩
    · exact .inl rfl

/-- An entry saves R6 when it leaves user mode, and nothing otherwise (R22). -/
theorem enter_savedUSP_cases (a : Word) (pl : BitVec 3) (s : State) :
    (enter a pl s).savedUSP = s.savedUSP ∨
      (s.psr.mode = .user ∧ (enter a pl s).psr.mode = .supervisor ∧ (enter a pl s).savedUSP = s.reg regSP) := by
  rw [enter_savedUSP, enter_psr]
  split
  · next huser => exact .inr ⟨huser, rfl, rfl⟩
  · exact .inl rfl

/-- Only an entry from user mode changes SavedUSP (R28). -/
theorem exec_savedUSP (h : exec i s = .next t) :
    t.savedUSP = s.savedUSP ∨
      (s.psr.mode = .user ∧ t.psr.mode = .supervisor ∧ t.savedUSP = s.reg regSP) := by
  cases exec_outcome h with
  | completes hc => exact .inl hc.savedUSP
  | traps v ht => exact ht ▸ enter_savedUSP_cases _ _ s
  | raises e u hu ht =>
    have hu' := enter_savedUSP_cases (interruptTableEntry e.vector) u.psr.pl u
    rw [hu.sameContext.savedUSP, hu.sameContext.mode, hu.reg] at hu'
    exact ht ▸ hu'
  | returns _ _ ht => exact .inl (by simp [ht])

/-- Before the boundary SavedSSP changes only by an executed RTI: the fetch's access violation leaves it. -/
theorem fetchAndExecute_savedSSP (hactive : s.active = true) (h : fetchAndExecute s = .next u) :
    u.savedSSP = s.savedSSP ∨
      (StepExecutes s .rti ∧ s.psr.mode = .supervisor ∧ u.savedSSP = s.reg regSP + 2) := by
  obtain ⟨-, rfl⟩ | ⟨i, hi, hexec⟩ := fetchAndExecute_cases hactive h
  · exact .inl (by simp [fetchAccessViolation, exceptionEntry])
  · obtain hsame | ⟨rfl, hmode, -, hset⟩ := exec_savedSSP hexec
    · exact .inl (by simpa using hsame)
    · exact .inr ⟨hi, by simpa using hmode, by simpa using hset⟩

/-- Before the boundary SavedUSP changes only by an entry from user mode: the instruction's, or that of the fetch's
access violation. -/
theorem fetchAndExecute_savedUSP (hactive : s.active = true) (h : fetchAndExecute s = .next u) :
    u.savedUSP = s.savedUSP ∨
      (s.psr.mode = .user ∧ u.psr.mode = .supervisor ∧ u.savedUSP = s.reg regSP) := by
  obtain ⟨-, rfl⟩ | ⟨i, -, hexec⟩ := fetchAndExecute_cases hactive h
  · exact enter_savedUSP_cases _ _ { s with pc := s.pc + 1 }
  · simpa using exec_savedUSP hexec

@[simp] theorem boundary_savedSSP (s : State) : (boundary s).savedSSP = s.savedSSP := by
  obtain ⟨-, hb⟩ | ⟨-, -, hb⟩ | ⟨-, -, hb⟩ := boundary_cases s <;> simp [hb, interruptEntry]

/-- The boundary leaves SavedUSP and supervisor mode as they are, or takes an interrupt out of user mode (R213). -/
theorem boundary_savedUSP (s : State) :
    ((boundary s).savedUSP = s.savedUSP ∧ (s.psr.mode = .supervisor → (boundary s).psr.mode = .supervisor)) ∨
      (s.psr.mode = .user ∧ interruptPending s = true ∧ (boundary s).psr.mode = .supervisor ∧
        (boundary s).savedUSP = s.reg regSP) := by
  obtain ⟨-, hb⟩ | ⟨-, hpending, hb⟩ | ⟨-, -, hb⟩ := boundary_cases s
  · exact .inl (by simp [hb])
  · rw [hb, stopCheck_savedUSP, stopCheck_psr, interruptEntry]
    obtain hsame | ⟨huser, hmode, hset⟩ :=
      enter_savedUSP_cases (interruptTableEntry s.params.kbdIntVector) s.params.kbdIntPriority s
    · exact .inl ⟨hsame, fun _ => by simp⟩
    · exact .inr ⟨huser, hpending, hmode, hset⟩
  · exact .inl (by simp [hb])

end

/-- Settles O44: SavedSSP by the instruction alone; SavedUSP by the instruction or by the interrupt after it. -/
theorem savedStackPointersChangeOnlyBySwaps : Obligations.SavedStackPointersChangeOnlyBySwaps := by
  unfold Obligations.SavedStackPointersChangeOnlyBySwaps
  refine ⟨fun i s t h => ⟨?_, exec_savedUSP h⟩, fun s t h => ?_⟩
  · exact (exec_savedSSP h).imp_right fun ⟨hi, _, huser, hset⟩ => ⟨hi, huser, hset⟩
  obtain ⟨-, rfl⟩ | ⟨hactive, u, hu, rfl⟩ := step_cases h
  · exact ⟨.inl rfl, .inl rfl⟩
  constructor
  · rw [boundary_savedSSP]
    exact fetchAndExecute_savedSSP hactive hu
  obtain ⟨hsame, hmode⟩ | ⟨huser, hpending, hmode, hset⟩ := boundary_savedUSP u
  · rw [hsame]
    exact (fetchAndExecute_savedUSP hactive hu).imp_right
      fun ⟨huser, hsup, hset⟩ => ⟨hmode hsup, .inl ⟨huser, hset⟩⟩
  · exact .inr ⟨hmode, .inr ⟨u, hu, huser, hpending, hset⟩⟩

end Sys2Proof.Machine
end

section
/-! The backing array, the intercept and the user-mode check, address by address; stores before a fetch, and loads
(20_memory.md R46, R52, R53, R56, R57, R63). -/

namespace Sys2Proof.Machine

/-- Settles O13, by the laws of the backing array. -/
theorem memoryReadsLastWrite : Obligations.MemoryReadsLastWrite := by
  unfold Obligations.MemoryReadsLastWrite
  exact ⟨fun m a v x h => ⟨Memory.wf_write h a v, Memory.read_write h a v x⟩, fun _ _ => Memory.eq_of_read_eq⟩

/-- The addresses that are no device register, by their values (R48, R52). -/
theorem isDevice_eq_false_iff (a : Word) :
    isDevice a = false ↔ a ∉ [0xFE00#16, 0xFE02#16, 0xFE04#16, 0xFE06#16, 0xFFFE#16] := by
  rw [isDevice, List.contains_eq_mem, decide_eq_false_iff_not]
  rfl

/-- KBSR's bits (R220). -/
theorem kbsr_bits (s : State) :
    s.kbsr.getLsbD 15 = s.kbdReady ∧ s.kbsr.getLsbD 14 = s.kbdIE ∧ s.kbsr &&& 0x3FFF = 0 := by
  unfold State.kbsr
  cases s.kbdReady <;> cases s.kbdIE <;> decide

/-- DSR's bits (R224). -/
theorem dsrWord_bits (ready : Bool) : dsrWord ready &&& 0x7FFF = 0 ∧ (dsrWord ready).getLsbD 15 = ready := by
  cases ready <;> decide

theorem dsrRead_always {s : State} (h : s.params.displayReady = .always) : dsrRead s = (0x8000, s) := by
  rw [dsrRead, h]
  rfl

theorem dsrRead_draw {s : State} (h : s.params.displayReady = .draw) :
    (dsrRead s).1 &&& 0x7FFF = 0 ∧
      (dsrRead s).2 = { s with dsrReady := (dsrRead s).1.getLsbD 15, dsrDraws := s.dsrDraws + 1 } := by
  obtain ⟨hlow, hready⟩ := dsrWord_bits (Config.displayReadyDraw s.dsrDraws)
  rw [dsrRead, h]
  exact ⟨hlow, by rw [hready]⟩

/-- Settles O14: the plain addresses by the intercept's law, each device register by its own read. -/
theorem memReadRoutesEveryAddress : Obligations.MemReadRoutesEveryAddress := by
  unfold Obligations.MemReadRoutesEveryAddress
  intro a s
  constructor
  case plain =>
    intro h
    rw [memRead_plain ((isDevice_eq_false_iff a).mpr h)]
    exact ⟨rfl, rfl⟩
  case kbsr =>
    rintro rfl
    obtain ⟨hready, hie, hlow⟩ := kbsr_bits s
    exact ⟨hready, hie, hlow, rfl⟩
  case kbdr | ddr | mcr =>
    rintro rfl
    exact ⟨rfl, rfl⟩
  case dsrAlways =>
    rintro rfl h
    change (dsrRead s).1 = _ ∧ (dsrRead s).2 = _
    rw [dsrRead_always h]
    exact ⟨rfl, rfl⟩
  case dsrDraw =>
    rintro rfl h
    exact dsrRead_draw h

/-- Settles O15: the plain addresses by read after write, each device register by its own write. -/
theorem memWriteRoutesEveryAddress : Obligations.MemWriteRoutesEveryAddress := by
  unfold Obligations.MemWriteRoutesEveryAddress
  intro a v s hwf
  constructor
  case plain =>
    intro h
    rw [memWrite_plain ((isDevice_eq_false_iff a).mpr h)]
    exact ⟨(Memory.read_write hwf a v a).trans (if_pos rfl),
      fun x hx => (Memory.read_write hwf a v x).trans (if_neg hx), rfl⟩
  case kbsr | kbdr | dsr | ddr | mcr =>
    rintro rfl
    rfl

/-- Under `DISPLAY_READY` = always only the read of KBDR changes the state (R53). -/
theorem memRead_state_of_ne_kbdr {s : State} (h : s.params.displayReady = .always) {a : Word} (ha : a ≠ addrKBDR) :
    (memRead a s).2 = s := by
  by_cases hdsr : a = addrDSR
  · subst hdsr
    exact congrArg Prod.snd (dsrRead_always h)
  · rw [memRead_unchanged ha hdsr]

/-- Settles O16: a read of KBDR clears READY, which KBDR does not show; every other read leaves the state. -/
theorem onlyKbdrReadsHaveSideEffects : Obligations.OnlyKbdrReadsHaveSideEffects := by
  unfold Obligations.OnlyKbdrReadsHaveSideEffects
  intro a s h
  refine ⟨memRead_state_of_ne_kbdr h, rfl, ?_⟩
  by_cases ha : a = addrKBDR
  · subst ha
    rfl
  · rw [memRead_state_of_ne_kbdr h ha]

/-- When an access raises (R57). -/
theorem State.violates_iff (s : State) (a : Word) :
    s.violates a = true ↔ s.psr.mode = .user ∧ s.params.inUserWindow a = false := by
  simp [State.violates]

/-- The spec's `USER_WINDOW` by its ends (R6). -/
theorem spec_inUserWindow_iff (a : Word) :
    Params.spec.inUserWindow a = true ↔ 0x3000 ≤ a.toNat ∧ a.toNat ≤ 0xFDFF := by
  simp [Params.inUserWindow, Params.spec, BitVec.le_def]

/-- Settles O17: the check by its definition, the window by its two ends. -/
theorem userModeCheck : Obligations.UserModeCheck := by
  unfold Obligations.UserModeCheck
  exact ⟨State.violates_iff, spec_inUserWindow_iff⟩

/-! A store that the next fetch sees (R63). -/

/-- A store at the next instruction's address, plain and allowed, is what the fetch there reads. -/
theorem storeTo_pc_isFetched {sr : Reg} {s : State} (hwf : s.memory.wf = true) (hallowed : s.violates s.pc = false)
    (hplain : isDevice s.pc = false) :
    ∃ t, storeTo sr s.pc s = .next t ∧ t.pc = s.pc ∧ (fetch t).1 = s.reg sr := by
  refine ⟨memWrite s.pc (s.reg sr) s, by simp [storeTo_eq, hallowed], memWrite_pc _ _ s, ?_⟩
  simp [fetch, memRead_plain hplain, memWrite_read hwf, hplain]

/-- Settles O28: the three stores end with the same store at the next instruction's address; STI's from the state its
pointer read left. -/
theorem storeIsSeenByTheNextFetch : Obligations.StoreIsSeenByTheNextFetch := by
  unfold Obligations.StoreIsSeenByTheNextFetch
  intro sr s hwf hallowed hplain
  rw [← isDevice_eq_false_iff] at hplain
  have hstore := storeTo_pc_isFetched (sr := sr) hwf hallowed hplain
  refine ⟨?_, fun off hpa hea => ?_, fun baseR off hea => ?_⟩
  · have hea : s.pcRelative (0 : BitVec 9) = s.pc := by simp [State.pcRelative, sext]
    change ∃ t, storeTo sr (s.pcRelative 0) s = .next t ∧ _
    rwa [hea]
  · change ∃ t, throughPointer (s.pc + off.signExtend 16) s (storeTo sr) = .next t ∧ _
    rw [throughPointer_eq, hpa, hea]
    simpa using storeTo_pc_isFetched (sr := sr) (s := (memRead (s.pc + off.signExtend 16) s).2)
      (by simpa using hwf) (by simpa using hallowed) (by simpa using hplain)
  · change ∃ t, storeTo sr (s.reg baseR + off.signExtend 16) s = .next t ∧ _
    rwa [hea]

/-! Loads of object files (R56). -/

/-- A load is refused exactly when a block runs past the end (R56). -/
theorem State.load_error_iff (blocks : List Block) (s : State) :
    (∃ e, s.load blocks = .error e) ↔ ∃ c ∈ blocks, c.fits = false := by
  unfold State.load firstPastEnd
  split
  · next c hc =>
    have hfits : c.fits = false := by simpa using List.find?_some hc
    exact ⟨fun _ => ⟨c, List.mem_of_find?_eq_some hc, hfits⟩, fun _ => ⟨_, rfl⟩⟩
  · next hnone => simpa using hnone

/-- A load of blocks that all fit succeeds (R56). -/
theorem State.load_eq_ok {blocks : List Block} (h : ∀ c ∈ blocks, c.fits = true) (s : State) :
    s.load blocks = .ok { s with memory := writeBlocks s.memory blocks } := by
  have hnone : firstPastEnd blocks = none := by simpa [firstPastEnd] using h
  simp [State.load, hnone]

theorem writeBlocks_append_singleton (m : Memory) (blocks : List Block) (b : Block) :
    writeBlocks m (blocks ++ [b]) = (writeBlocks m blocks).writeBlock b.origin.toNat b.words := by
  simp [writeBlocks]

/-- Settles O58: the last block's words over what the blocks before it left. -/
theorem loadWritesBlocksInOrder : Obligations.LoadWritesBlocksInOrder := by
  unfold Obligations.LoadWritesBlocksInOrder
  intro blocks b s hwf
  refine ⟨rfl, fun t ht => ?_, ?_⟩
  · obtain ⟨hfits, rfl⟩ := State.load_ok ht
    have hblocks : ∀ c ∈ blocks, c.fits = true := fun c hc => hfits c (by simp [hc])
    have hb : b.fits = true := hfits b (by simp)
    refine ⟨_, State.load_eq_ok hblocks s, rfl, fun a => ?_⟩
    rw [writeBlocks_append_singleton]
    exact Memory.readAt_writeBlock (writeBlocks_wf hwf hblocks) (of_decide_eq_true hb) a.toNat
  · rw [State.load_error_iff]
    simp [Block.fits]

end Sys2Proof.Machine
end

section
/-! Well-formedness over all instructions and steps (10_state.md R34; 20_memory.md R46; 41_execution_cycle.md R133,
R138). -/

namespace Sys2Proof.Machine

/-- What well-formedness asks while steps run: the clock counts only in a halted machine, so MCR is not in it. -/
structure ActiveWf (s : State) : Prop where
  active : s.active = true
  memory : s.memory.wf = true
  breakpoints : rising s.breakpoints = true
  budget : s.engine = .singleStep → ∃ n, s.budget = some n ∧ 0 < n
  display : s.params.displayReady = .always → s.dsrReady = true

theorem displayWf_iff (s : State) : s.displayWf = true ↔ (s.params.displayReady = .always → s.dsrReady = true) := by
  unfold State.displayWf
  cases s.params.displayReady <;> simp

theorem activeWf_of_wf {s : State} (hactive : s.active = true) (h : s.wf = true) : ActiveWf s := by
  simp only [State.wf, Bool.and_eq_true] at h
  obtain ⟨⟨⟨hmemory, hbreakpoints⟩, hcontrol⟩, hdisplay⟩ := h
  refine ⟨hactive, hmemory, hbreakpoints, fun hsingle => ?_, (displayWf_iff s).mp hdisplay⟩
  rw [State.controlWf, hsingle] at hcontrol
  cases hbudget : s.budget with
  | none => simp [hbudget] at hcontrol
  | some n => exact ⟨n, rfl, by simpa [hbudget] using hcontrol⟩

namespace ActiveWf
variable {s t : State}

/-- The registers, PC, PSR and the saved stack pointers are in no clause. -/
theorem of_core (h : ActiveWf s)
    (ht : t = { s with
      regs := t.regs, pc := t.pc, psr := t.psr, savedSSP := t.savedSSP, savedUSP := t.savedUSP }) : ActiveWf t := by
  rw [ht]
  exact ⟨h.active, h.memory, h.breakpoints, h.budget, h.display⟩

theorem memRead (h : ActiveWf s) (a : Word) : ActiveWf (memRead a s).2 where
  active := by simpa [State.active] using h.active
  memory := by simpa using h.memory
  breakpoints := by simpa using h.breakpoints
  budget := by simpa using h.budget
  display := by
    rw [memRead_params]
    intro halways
    exact (memRead_display halways a).1.trans (h.display halways)

theorem memWrite (h : ActiveWf s) (a v : Word) : ActiveWf (memWrite a v s) where
  active := by simpa [State.active] using h.active
  memory := memWrite_memory_wf h.memory a v
  breakpoints := by simpa using h.breakpoints
  budget := by simpa using h.budget
  display := by simpa using h.display

theorem push (h : ActiveWf s) (v : Word) : ActiveWf (push v s) := (h.of_core rfl).memWrite _ v

theorem pop (h : ActiveWf s) : ActiveWf (pop s).2 := (h.memRead _).of_core rfl

theorem entryBase (h : ActiveWf s) (pl : BitVec 3) : ActiveWf (entryBase pl s) := by
  refine h.of_core ?_
  unfold Machine.entryBase switchToSupervisor
  cases s.psr.mode <;> rfl

theorem enter (h : ActiveWf s) (tableEntry : Word) (pl : BitVec 3) : ActiveWf (enter tableEntry pl s) := by
  rw [enter_eq]
  exact ((((h.entryBase pl).push _).push _).memRead tableEntry).of_core rfl

theorem exceptionEntry (h : ActiveWf s) (e : Exception) : ActiveWf (exceptionEntry e s) := h.enter _ _

theorem switchToRestoredMode (h : ActiveWf s) : ActiveWf (switchToRestoredMode s) := by
  refine h.of_core ?_
  unfold Machine.switchToRestoredMode
  cases s.psr.mode <;> rfl

theorem returnFromEntry (h : ActiveWf s) : ActiveWf (returnFromEntry s) := by
  rw [returnFromEntry_eq]
  have hpc : ActiveWf { (Machine.pop s).2 with pc := (Machine.pop s).1 } := h.pop.of_core rfl
  exact (hpc.pop.of_core rfl).switchToRestoredMode

theorem branch (h : ActiveWf s) (n z p : Bool) (off : BitVec 9) : ActiveWf (branch n z p off s) := by
  refine h.of_core ?_
  unfold Machine.branch
  split <;> rfl

theorem loadFrom {dr : Reg} {ea : Word} (h : ActiveWf s) (ht : loadFrom dr ea s = .next t) : ActiveWf t := by
  rw [loadFrom_eq] at ht
  obtain rfl := Host.Outcome.next.inj ht
  split
  · exact h.exceptionEntry _
  · exact (h.memRead ea).of_core rfl

theorem storeTo {sr : Reg} {ea : Word} (h : ActiveWf s) (ht : storeTo sr ea s = .next t) : ActiveWf t := by
  rw [storeTo_eq] at ht
  obtain rfl := Host.Outcome.next.inj ht
  split
  · exact h.exceptionEntry _
  · exact h.memWrite ea _

theorem throughPointer {pa : Word} {access : Word → State → Result} (h : ActiveWf s)
    (haccess : ∀ {ea : Word} {u : State}, ActiveWf u → access ea u = .next t → ActiveWf t)
    (ht : throughPointer pa s access = .next t) : ActiveWf t := by
  rw [throughPointer_eq] at ht
  split at ht
  · obtain rfl := Host.Outcome.next.inj ht
    exact h.exceptionEntry _
  · exact haccess (h.memRead pa) ht

theorem execLea {dr : Reg} {off : BitVec 9} (h : ActiveWf s) (ht : execLea dr off s = .next t) : ActiveWf t := by
  obtain rfl := Host.Outcome.next.inj ht
  refine h.of_core ?_
  split <;> rfl

theorem execRti (h : ActiveWf s) (ht : execRti s = .next t) : ActiveWf t := by
  unfold Machine.execRti at ht
  split at ht
  · obtain rfl := Host.Outcome.next.inj ht
    exact h.exceptionEntry _
  · obtain rfl := Host.Outcome.next.inj ht
    exact h.returnFromEntry

/-- Every instruction keeps it. -/
theorem exec {i : Instr} (h : ActiveWf s) (ht : exec i s = .next t) : ActiveWf t := by
  cases i with
  | addReg | addImm | andReg | andImm | not | jmp | ret | jsr | jsrr =>
    obtain rfl := Host.Outcome.next.inj ht
    exact h.of_core rfl
  | br | brn | brz | brp | brnz | brnp | brzp | brnzp =>
    obtain rfl := Host.Outcome.next.inj ht
    exact h.branch _ _ _ _
  | ld | ldr => exact h.loadFrom ht
  | ldi => exact h.throughPointer .loadFrom ht
  | lea => exact h.execLea ht
  | st | str => exact h.storeTo ht
  | sti => exact h.throughPointer .storeTo ht
  | rti => exact h.execRti ht
  | trap | getc | out | puts | inp | putsp | halt | illegal =>
    obtain rfl := Host.Outcome.next.inj ht
    exact h.enter _ _

/-- Fetch, decode and execute keep it, the fetch's own access violation included. -/
theorem fetchAndExecute (h : ActiveWf s) (ht : fetchAndExecute s = .next t) : ActiveWf t := by
  obtain ⟨-, rfl⟩ | ⟨i, -, hexec⟩ := fetchAndExecute_cases h.active ht
  · have hpc : ActiveWf { s with pc := s.pc + 1 } := h.of_core rfl
    exact hpc.exceptionEntry .accessViolation
  · have hfetch : ActiveWf (fetch s).2 := (h.memRead s.pc).of_core rfl
    exact hfetch.exec hexec

/-- The stop check leaves the engine as it was only with steps left in the budget (R134, R138). -/
theorem controlWf_stopCheck (h : ActiveWf s) : (stopCheck s).controlWf = true := by
  have hactive := h.active
  have hbudget := h.budget
  cases hdue : stopDue s
  · cases hengine : s.engine with
    | stopped | halted => simp [State.active, hengine] at hactive
    | running => simp [State.controlWf, stopCheck, hdue, hengine]
    | singleStep =>
      obtain ⟨n, hn, -⟩ := hbudget hengine
      have hleft : n - 1 ≠ 0 := by
        intro hzero
        simp [stopDue, State.budgetAfterStep, hn, hzero] at hdue
      simpa [State.controlWf, stopCheck, hdue, hengine, State.budgetAfterStep, hn] using Nat.pos_of_ne_zero hleft
  · simp [State.controlWf, stopCheck, hdue]

/-- The control state alone decides whether the state is well-formed once a step has ended. -/
theorem wf_of_controlWf (h : ActiveWf s) {e : EngineState} {b : Option Nat} {r : Bool}
    (hcontrol : ({ s with engine := e, budget := b, stopRequest := r } : State).controlWf = true) :
    ({ s with engine := e, budget := b, stopRequest := r } : State).wf = true := by
  simp only [State.wf, Bool.and_eq_true]
  exact ⟨⟨⟨h.memory, h.breakpoints⟩, hcontrol⟩, (displayWf_iff _).mpr h.display⟩

theorem wf_stopCheck (h : ActiveWf s) : (stopCheck s).wf = true := h.wf_of_controlWf h.controlWf_stopCheck

/-- The boundary ends a step well-formed: it halts with the clock off, or stops or goes on by the stop check. -/
theorem wf_boundary (h : ActiveWf s) : (boundary s).wf = true := by
  obtain ⟨hclock, hb⟩ | ⟨-, -, hb⟩ | ⟨-, -, hb⟩ := boundary_cases s <;> rw [hb]
  · exact h.wf_of_controlWf (by rw [State.controlWf, hclock]; rfl)
  · exact (h.enter _ _).wf_stopCheck
  · exact h.wf_stopCheck

end ActiveWf

/-- Settles O53: the running part of the invariant through the instruction, then all of it at the boundary. -/
theorem everyStepKeepsWellFormedness : Obligations.EveryStepKeepsWellFormedness := by
  unfold Obligations.EveryStepKeepsWellFormedness
  intro s t h hstep
  obtain ⟨-, rfl⟩ | ⟨hactive, u, hu, rfl⟩ := step_cases hstep
  · exact h
  · exact ((activeWf_of_wf hactive h).fetchAndExecute hu).wf_boundary

end Sys2Proof.Machine
end

section
/-! What a user program can see (20_memory.md R57, 60_exceptions.md R218). -/

namespace Sys2Proof.Machine

namespace SameToUser
variable {s t : State}

theorem reg (h : SameToUser s t) (r : Reg) : t.reg r = s.reg r := by rw [State.reg, State.reg, h.regs]

theorem violates (h : SameToUser s t) (a : Word) : t.violates a = s.violates a := by
  rw [State.violates, State.violates, h.psr, h.params]

theorem pcRelative {n : Nat} (h : SameToUser s t) (off : BitVec n) : t.pcRelative off = s.pcRelative off := by
  rw [State.pcRelative, State.pcRelative, h.pc]

theorem baseOffset (h : SameToUser s t) (baseR : Reg) (off : BitVec 6) :
    t.baseOffset baseR off = s.baseOffset baseR off := by
  rw [State.baseOffset, State.baseOffset, h.reg]

theorem setReg (h : SameToUser s t) (r : Reg) (v : Word) : SameToUser (s.setReg r v) (t.setReg r v) :=
  ⟨by rw [State.setReg, State.setReg, h.regs], h.pc, h.psr, h.params, h.memory⟩

theorem setCC (h : SameToUser s t) (v : Word) : SameToUser (s.setCC v) (t.setCC v) :=
  ⟨h.regs, h.pc, by rw [State.setCC_psr, State.setCC_psr, h.psr], h.params, h.memory⟩

theorem setPc (h : SameToUser s t) {a b : Word} (hab : b = a) : SameToUser { s with pc := a } { t with pc := b } :=
  ⟨h.regs, hab, h.psr, h.params, h.memory⟩

theorem writeResult (h : SameToUser s t) (dr : Reg) {v w : Word} (hvw : w = v) :
    SameToUser (writeResult dr v s) (writeResult dr w t) :=
  hvw ▸ (h.setReg dr v).setCC v

theorem callTo (h : SameToUser s t) {a b : Word} (hab : b = a) : SameToUser (callTo a s) (callTo b t) := by
  unfold Machine.callTo
  rw [h.pc]
  exact (h.setReg regLink s.pc).setPc hab

theorem branch (h : SameToUser s t) (n z p : Bool) (off : BitVec 9) :
    SameToUser (branch n z p off s) (branch n z p off t) := by
  unfold Machine.branch
  rw [h.psr]
  split
  · simpa only [h.psr] using h.setPc (h.pcRelative off)
  · exact h

theorem writeMemory (h : SameToUser s t) (hs : s.memory.wf = true) (ht : t.memory.wf = true) (a v : Word) :
    SameToUser { s with memory := s.memory.write a v } { t with memory := t.memory.write a v } := by
  refine ⟨h.regs, h.pc, h.psr, h.params, fun x hx => ?_⟩
  rw [Memory.read_write hs, Memory.read_write ht, h.memory x hx]

end SameToUser

/-- If the first answer is a state in user mode, the second is one that shows a user program the same. -/
def AlikeInUserMode (r1 r2 : Result) : Prop :=
  ∀ t1, r1 = .next t1 → t1.psr.mode = .user → ∃ t2, r2 = .next t2 ∧ SameToUser t1 t2

theorem AlikeInUserMode.of_sameToUser {t1 t2 : State} (h : SameToUser t1 t2) :
    AlikeInUserMode (.next t1) (.next t2) := by
  intro t ht _
  obtain rfl := Host.Outcome.next.inj ht
  exact ⟨t2, rfl, h⟩

/-- An entry leaves user mode. -/
theorem AlikeInUserMode.of_enter (tableEntry : Word) (pl : BitVec 3) (s : State) (r : Result) :
    AlikeInUserMode (.next (enter tableEntry pl s)) r := by
  intro t ht huser
  obtain rfl := Host.Outcome.next.inj ht
  simp at huser

/-- Two states in user mode that show a user program the same, with canonical memory and no device register in
`USER_WINDOW`. -/
structure UserPair (s1 s2 : State) : Prop where
  same : SameToUser s1 s2
  wf1 : s1.memory.wf = true
  wf2 : s2.memory.wf = true
  shielded : s1.params.shieldsDevices = true
  user : s1.psr.mode = .user

namespace UserPair
variable {s1 s2 : State}

theorem isDevice_of_inUserWindow (h : UserPair s1 s2) {a : Word} (ha : s1.params.inUserWindow a = true) :
    isDevice a = false := by
  have hshielded := h.shielded
  rw [Params.shieldsDevices, List.all_eq_true] at hshielded
  refine Bool.eq_false_iff.mpr fun hdevice => ?_
  simpa [ha] using hshielded a (List.contains_iff_mem.mp hdevice)

/-- An access outside the window raises in both states; one inside it is to plain memory. -/
theorem checked (h : UserPair s1 s2) (a : Word) {rest : State → Result}
    (hrest : s1.params.inUserWindow a = true → isDevice a = false → AlikeInUserMode (rest s1) (rest s2)) :
    AlikeInUserMode (checked a s1 rest) (checked a s2 rest) := by
  unfold Machine.checked
  rw [h.same.violates]
  split
  · exact .of_enter _ _ _ _
  · next hviolates =>
    have hwindow : s1.params.inUserWindow a = true := by simpa [State.violates, h.user] using hviolates
    exact hrest hwindow (h.isDevice_of_inUserWindow hwindow)

theorem loadFrom (h : UserPair s1 s2) (dr : Reg) {ea ea' : Word} (hea : ea' = ea) :
    AlikeInUserMode (loadFrom dr ea s1) (loadFrom dr ea' s2) := by
  subst hea
  refine h.checked _ fun hwindow hplain => ?_
  rw [memRead_plain hplain, memRead_plain hplain]
  exact .of_sameToUser (h.same.writeResult dr (h.same.memory _ hwindow))

theorem storeTo (h : UserPair s1 s2) (sr : Reg) {ea ea' : Word} (hea : ea' = ea) :
    AlikeInUserMode (storeTo sr ea s1) (storeTo sr ea' s2) := by
  subst hea
  refine h.checked _ fun _ hplain => ?_
  rw [memWrite_plain hplain, memWrite_plain hplain, h.same.reg]
  exact .of_sameToUser (h.same.writeMemory h.wf1 h.wf2 _ _)

/-- The pointers read alike, since both lie in the window. -/
theorem throughPointer (h : UserPair s1 s2) (off : BitVec 9) {access : Word → State → Result}
    (haccess : ∀ {ea ea' : Word}, ea' = ea → AlikeInUserMode (access ea s1) (access ea' s2)) :
    AlikeInUserMode (throughPointer (s1.pcRelative off) s1 access) (throughPointer (s2.pcRelative off) s2 access) := by
  rw [h.same.pcRelative]
  refine h.checked _ fun hwindow hplain => ?_
  rw [memRead_plain hplain, memRead_plain hplain]
  exact haccess (h.same.memory _ hwindow)

theorem execLea (h : UserPair s1 s2) (dr : Reg) (off : BitVec 9) :
    AlikeInUserMode (execLea dr off s1) (execLea dr off s2) := by
  unfold Machine.execLea
  rw [h.same.pcRelative, h.same.params]
  refine .of_sameToUser ?_
  split
  · exact (h.same.setReg dr _).setCC _
  · exact h.same.setReg dr _

theorem execRti (h : UserPair s1 s2) (r : Result) : AlikeInUserMode (execRti s1) r := by
  rw [Machine.execRti, h.user]
  exact .of_enter _ _ _ _

/-- Every instruction, from such a pair. -/
theorem exec (h : UserPair s1 s2) (i : Instr) : AlikeInUserMode (exec i s1) (exec i s2) := by
  have hsame := h.same
  cases i with
  | addReg | addImm | andReg | andImm | not => exact .of_sameToUser (hsame.writeResult _ (by simp only [hsame.reg]))
  | br | brn | brz | brp | brnz | brnp | brzp | brnzp => exact .of_sameToUser (hsame.branch _ _ _ _)
  | jmp | ret => exact .of_sameToUser (hsame.setPc (hsame.reg _))
  | jsr off => exact .of_sameToUser (hsame.callTo (hsame.pcRelative off))
  | jsrr baseR => exact .of_sameToUser (hsame.callTo (hsame.reg baseR))
  | ld dr off => exact h.loadFrom dr (hsame.pcRelative off)
  | ldr dr baseR off => exact h.loadFrom dr (hsame.baseOffset baseR off)
  | ldi dr off => exact h.throughPointer off (h.loadFrom dr)
  | lea dr off => exact h.execLea dr off
  | st sr off => exact h.storeTo sr (hsame.pcRelative off)
  | str sr baseR off => exact h.storeTo sr (hsame.baseOffset baseR off)
  | sti sr off => exact h.throughPointer off (h.storeTo sr)
  | rti => exact h.execRti _
  | trap | getc | out | puts | inp | putsp | halt | illegal => exact .of_enter _ _ _ _

end UserPair

/-- Settles O46: registers and PC agree, every access that does not raise lies in the window, and every entry leaves
user mode. -/
theorem userInstructionsSeeNothingProtected : Obligations.UserInstructionsSeeNothingProtected := by
  unfold Obligations.UserInstructionsSeeNothingProtected
  intro i s1 s2 t1 hwf1 hwf2 hshielded hsame huser
  exact UserPair.exec ⟨hsame, hwf1, hwf2, hshielded, huser⟩ i t1

end Sys2Proof.Machine
end

section
/-! Words against their fields (30_encoding.md R71 to R83): which words the decoder calls illegal, and encoding back
what it answers. -/

namespace Sys2Proof

/-- Settles O1: each word is decoded. -/
theorem sampleWordsDecode : Obligations.SampleWordsDecode := by
  unfold Obligations.SampleWordsDecode
  decide

/-! The illegal words. -/

@[simp] theorem fixedOk_lenient (w : Word) (lo len : Nat) (v : BitVec len) : fixedOk .lenient w lo len v = true := rfl

theorem fixedOk_strict_iff {w : Word} {lo len : Nat} {v : BitVec len} :
    fixedOk .strict w lo len v = true ↔ field w lo len = v := by
  rw [fixedOk, Bool.or_eq_true, beq_iff_eq, beq_iff_eq, or_iff_right (by decide)]

theorem fixedOk_strict_eq_false_iff {w : Word} {lo len : Nat} {v : BitVec len} :
    fixedOk .strict w lo len v = false ↔ field w lo len ≠ v := by
  rw [← Bool.not_eq_true, fixedOk_strict_iff]

/-- Every opcode but 1101 has a format (R82). -/
theorem eq_reserved_of_not_mem : ∀ op : BitVec 4, op ∉ [0x0#4, 0x1#4, 0x2#4, 0x3#4, 0x4#4, 0x5#4, 0x6#4, 0x7#4, 0x8#4,
    0x9#4, 0xA#4, 0xB#4, 0xC#4, 0xE#4, 0xF#4] → op = 0xD#4 := by decide

/-- Whether a word is illegal, read off its fields: the reserved opcode, or a format whose fixed bits are not OK (R81 to
R83). -/
theorem decode_eq_illegal_iff (m : FixedBits) (w : Word) :
    decode m w = .illegal w ↔
      field w 12 4 = 0xD#4 ∨
      ((field w 12 4 = 0x1#4 ∨ field w 12 4 = 0x5#4) ∧ bitField w 5 = false ∧ fixedOk m w 3 2 0#2 = false) ∨
      (field w 12 4 = 0x9#4 ∧ fixedOk m w 0 6 0b111111#6 = false) ∨
      (field w 12 4 = 0xC#4 ∧ (fixedOk m w 9 3 0#3 = false ∨ fixedOk m w 0 6 0#6 = false)) ∨
      (field w 12 4 = 0x4#4 ∧ bitField w 11 = false ∧
        (fixedOk m w 9 2 0#2 = false ∨ fixedOk m w 0 6 0#6 = false)) ∨
      (field w 12 4 = 0x8#4 ∧ fixedOk m w 0 12 0#12 = false) ∨
      (field w 12 4 = 0xF#4 ∧ fixedOk m w 8 4 0#4 = false) := by
  unfold decode
  split
  case h_2 hop | h_6 hop => cases hbit : bitField w 5 <;> simp [hop]
  case h_5 hop =>
    cases hbit : bitField w 11
    · simp [hop, ← Bool.and_eq_false_iff]
    · simp [hop]
  case h_13 hop => simp [hop, ← Bool.and_eq_false_iff]
  case h_16 =>
    have hop : field w 12 4 = 0xD#4 := eq_reserved_of_not_mem _ (by simp_all)
    simp [hop]
  all_goals
    rename_i hop
    simp [hop]

/-- Settles O4: the fields' test, with the fixed bits ignored or counted. -/
theorem illegalWordsAreExactlyTheseWords : Obligations.IllegalWordsAreExactlyTheseWords := by
  unfold Obligations.IllegalWordsAreExactlyTheseWords
  refine ⟨fun w => ?_, fun w => ?_⟩ <;> rw [decode_eq_illegal_iff]
  · simp [field]
  · simp only [fixedOk_strict_eq_false_iff]
    rfl

/-! Well-formedness: the words the opcode table gives an instruction, against the words the decoder rejects. -/

section
variable {r : TableRow} {m : FixedBits} {w : Word} {lo len : Nat} {v : BitVec len}

/-- A field that a row's mask covers is the pattern's in every word the row matches. -/
theorem TableRow.field_eq_of_matches (h : r.matches m w = true)
    (hmask : field (r.mask m) lo len = BitVec.allOnes len) : field w lo len = field r.pattern lo len := by
  rw [TableRow.matches, beq_iff_eq] at h
  have hfield := congrArg (field · lo len) h
  rw [field] at hmask
  simpa only [field, BitVec.extractLsb'_and, hmask, BitVec.and_allOnes] using hfield

/-- The bits the strict mask covers are OK in every word the row matches, under both policies. -/
theorem TableRow.fixedOk_of_matches (h : r.matches m w = true)
    (hmask : field r.strictMask lo len = BitVec.allOnes len) : fixedOk m w lo len (field r.pattern lo len) = true := by
  cases m
  · exact fixedOk_strict_iff.mpr (field_eq_of_matches h hmask)
  · rfl

/-- A word with a row has that row's opcode. -/
theorem opcode_of_matches (hr : r ∈ instructionRows) (h : r.matches m w = true) :
    field r.pattern 12 4 = field w 12 4 := by
  have hmasks : ∀ r ∈ instructionRows, field r.strictMask 12 4 = BitVec.allOnes 4 ∧
      field r.lenientMask 12 4 = BitVec.allOnes 4 := by decide
  obtain ⟨hstrict, hlenient⟩ := hmasks r hr
  exact (TableRow.field_eq_of_matches h (by cases m; exacts [hstrict, hlenient])).symm

/-- Fixed bits that every row of an opcode has are OK in its legal words. -/
theorem fixedOk_of_legalWord {op : BitVec 4} (h : legalWord m w = true) (hop : field w 12 4 = op)
    (htable : ∀ r ∈ instructionRows, field r.pattern 12 4 = op →
      field r.strictMask lo len = BitVec.allOnes len ∧ field r.pattern lo len = v) :
    fixedOk m w lo len v = true := by
  obtain ⟨r, hr, hmatch⟩ := List.any_eq_true.mp h
  obtain ⟨hmask, rfl⟩ := htable r hr ((opcode_of_matches hr hmatch).trans hop)
  exact r.fixedOk_of_matches hmatch hmask

/-- The same where the opcode's rows are told apart by bit `i`, for the row that has 0 there. -/
theorem fixedOk_of_legalWord_of_bit {op : BitVec 4} (i : Fin 16) (h : legalWord m w = true)
    (hop : field w 12 4 = op) (hbit : bitField w i = false)
    (htable : ∀ r ∈ instructionRows, field r.pattern 12 4 = op →
      (r.strictMask.getLsbD i = true ∧ r.lenientMask.getLsbD i = true) ∧ (r.pattern.getLsbD i = false →
        field r.strictMask lo len = BitVec.allOnes len ∧ field r.pattern lo len = v)) :
    fixedOk m w lo len v = true := by
  obtain ⟨r, hr, hmatch⟩ := List.any_eq_true.mp h
  obtain ⟨⟨hstrict, hlenient⟩, hfixed⟩ := htable r hr ((opcode_of_matches hr hmatch).trans hop)
  have hpattern := (r.matches_iff m w).mp hmatch i (by cases m; exacts [hstrict, hlenient])
  obtain ⟨hmask, rfl⟩ := hfixed (hpattern.symm.trans hbit)
  exact r.fixedOk_of_matches hmatch hmask

/-- No row has the reserved opcode (R82). -/
theorem opcode_ne_reserved_of_legalWord (h : legalWord m w = true) : field w 12 4 ≠ 0xD#4 := by
  have htable : ∀ r ∈ instructionRows, field r.pattern 12 4 ≠ 0xD#4 := by decide
  obtain ⟨r, hr, hmatch⟩ := List.any_eq_true.mp h
  exact opcode_of_matches hr hmatch ▸ htable r hr

/-- A word with a row of the opcode table does not decode as illegal (R82, R83). -/
theorem decode_ne_illegal_of_legalWord (h : legalWord m w = true) : decode m w ≠ .illegal w := by
  rw [Ne, decode_eq_illegal_iff]
  rintro (hop | ⟨hop | hop, hbit, hfixed⟩ | ⟨hop, hfixed⟩ | ⟨hop, hfixed | hfixed⟩ | ⟨hop, hbit, hfixed | hfixed⟩ |
    ⟨hop, hfixed⟩ | ⟨hop, hfixed⟩)
  · exact opcode_ne_reserved_of_legalWord h hop
  · exact Bool.eq_false_iff.mp hfixed (fixedOk_of_legalWord_of_bit 5 h hop hbit (by decide))
  · exact Bool.eq_false_iff.mp hfixed (fixedOk_of_legalWord_of_bit 5 h hop hbit (by decide))
  · exact Bool.eq_false_iff.mp hfixed (fixedOk_of_legalWord h hop (by decide))
  · exact Bool.eq_false_iff.mp hfixed (fixedOk_of_legalWord h hop (by decide))
  · exact Bool.eq_false_iff.mp hfixed (fixedOk_of_legalWord h hop (by decide))
  · exact Bool.eq_false_iff.mp hfixed (fixedOk_of_legalWord_of_bit 11 h hop hbit (by decide))
  · exact Bool.eq_false_iff.mp hfixed (fixedOk_of_legalWord_of_bit 11 h hop hbit (by decide))
  · exact Bool.eq_false_iff.mp hfixed (fixedOk_of_legalWord h hop (by decide))
  · exact Bool.eq_false_iff.mp hfixed (fixedOk_of_legalWord h hop (by decide))

end

/-- What the decoder answers is well-formed under the policy it decoded with. -/
theorem decode_wellFormed (m : FixedBits) (w : Word) : (decode m w).wellFormed m = true := by
  have hcases : decode m w = .illegal w ∨ (decode m w).wellFormed m = true := by
    unfold decode
    split
    case h_2 | h_5 | h_6 => split_ifs; exacts [.inr rfl, .inr rfl, .inl rfl]
    case h_9 | h_10 | h_13 | h_15 => split_ifs; exacts [.inr rfl, .inl rfl]
    case h_16 => exact .inl rfl
    all_goals exact .inr rfl
  refine hcases.elim (fun hill => ?_) id
  rw [hill, Instr.wellFormed, Bool.not_eq_true', ← Bool.not_eq_true]
  exact fun hlegal => decode_ne_illegal_of_legalWord hlegal hill

/-- The decoder answers core instructions only (R117). -/
theorem decode_core (m : FixedBits) (w : Word) : (decode m w).core = decode m w := by
  unfold decode
  split
  case h_2 | h_5 | h_6 | h_9 | h_10 | h_13 | h_15 => split_ifs <;> rfl
  all_goals rfl

/-! Encoding back. -/

section
variable {w : Word}

/-- Two bit strings that are adjacent fields of a word make up the field of both. -/
theorem append_eq_field {lo k n : Nat} {x : BitVec k} {y : BitVec n} (hx : x = field w (lo + n) k)
    (hy : y = field w lo n) : x ++ y = field w lo (k + n) := by
  rw [hx, hy]
  exact BitVec.extractLsb'_append_extractLsb'_eq_extractLsb' rfl

theorem field_whole : field w 0 16 = w := BitVec.extractLsb'_eq_self

/-- A flag's bit is the field of that one bit. -/
theorem flagBit_eq_field {i : Nat} {b : Bool} (h : bitField w i = b) : flagBit b = field w i 1 := by
  subst h
  ext j hj
  obtain rfl : j = 0 := by omega
  simp [flagBit, bitField, field]

/-- Three bits are 0 if the upper one and the lower two are. -/
theorem field_three_eq_zero {lo : Nat} (hbit : bitField w (lo + 2) = false) (hlow : field w lo 2 = 0#2) :
    field w lo 3 = 0#3 :=
  (append_eq_field (flagBit_eq_field hbit) hlow.symm : flagBit false ++ 0#2 = field w lo (1 + 2)).symm

/-! Each format, filled in with a word's fields, is the word. -/

theorem formatBR_eq (hop : field w 12 4 = 0x0#4) :
    formatBR (bitField w 11) (bitField w 10) (bitField w 9) (field w 0 9) = w :=
  .trans (append_eq_field (append_eq_field (append_eq_field (append_eq_field hop.symm (flagBit_eq_field rfl))
    (flagBit_eq_field rfl)) (flagBit_eq_field rfl)) rfl) field_whole

theorem formatJSR_eq (hop : field w 12 4 = 0x4#4) (hbit : bitField w 11 = true) : formatJSR (field w 0 11) = w :=
  .trans (append_eq_field (append_eq_field hop.symm (flagBit_eq_field hbit)) rfl) field_whole

theorem formatNOT_eq (hop : field w 12 4 = 0x9#4) (hfixed : field w 0 6 = 0b111111#6) :
    formatNOT (regField w 9) (regField w 6) = w :=
  .trans (append_eq_field (append_eq_field (append_eq_field hop.symm rfl) rfl) hfixed.symm) field_whole

theorem formatRTI_eq (hop : field w 12 4 = 0x8#4) (hfixed : field w 0 12 = 0#12) : formatRTI = w :=
  .trans (append_eq_field hop.symm hfixed.symm) field_whole

theorem formatTRAP_eq (hop : field w 12 4 = 0xF#4) (hfixed : field w 8 4 = 0#4) : formatTRAP (field w 0 8) = w :=
  .trans (append_eq_field (append_eq_field hop.symm hfixed.symm) rfl) field_whole

variable {op : BitVec 4} (hop : field w 12 4 = op)
include hop

theorem formatRRR_eq (hbit : bitField w 5 = false) (hfixed : field w 3 2 = 0#2) :
    formatRRR op (regField w 9) (regField w 6) (regField w 0) = w :=
  .trans (append_eq_field (append_eq_field (append_eq_field (append_eq_field hop.symm rfl) rfl)
    (field_three_eq_zero hbit hfixed).symm) rfl) field_whole

theorem formatRRI_eq (hbit : bitField w 5 = true) :
    formatRRI op (regField w 9) (regField w 6) (field w 0 5) = w :=
  .trans (append_eq_field (append_eq_field (append_eq_field (append_eq_field hop.symm rfl) rfl)
    (flagBit_eq_field hbit)) rfl) field_whole

theorem formatRPC9_eq : formatRPC9 op (regField w 9) (field w 0 9) = w :=
  .trans (append_eq_field (append_eq_field hop.symm rfl) rfl) field_whole

theorem formatRRO6_eq : formatRRO6 op (regField w 9) (regField w 6) (field w 0 6) = w :=
  .trans (append_eq_field (append_eq_field (append_eq_field hop.symm rfl) rfl) rfl) field_whole

theorem formatBase_eq (hhigh : field w 9 3 = 0#3) (hlow : field w 0 6 = 0#6) : formatBase op (regField w 6) = w :=
  .trans (append_eq_field (append_eq_field (append_eq_field hop.symm hhigh.symm) rfl) hlow.symm) field_whole

end

/-- Where a format's fixed bits decide between an instruction and the illegal one, both give the word back. -/
theorem encode_ite_illegal {ok : Bool} {i : Instr} {w : Word} (h : ok = true → encode i = w) :
    encode (if ok then i else .illegal w) = w := by
  split
  · exact h ‹_›
  · rfl

/-- Under strict decode no bit of a word is lost (R81, R83). -/
theorem encode_decode_strict (w : Word) : encode (decode .strict w) = w := by
  unfold decode
  split
  case h_1 hop => exact formatBR_eq hop
  case h_2 hop | h_6 hop =>
    split
    · next hbit => exact formatRRI_eq hop hbit
    · next hbit =>
      exact encode_ite_illegal fun h => formatRRR_eq hop (Bool.eq_false_iff.mpr hbit) (fixedOk_strict_iff.mp h)
  case h_3 hop | h_4 hop | h_11 hop | h_12 hop | h_14 hop => exact formatRPC9_eq hop
  case h_5 hop =>
    split
    · next hbit => exact formatJSR_eq hop hbit
    · next hbit =>
      refine encode_ite_illegal fun h => ?_
      obtain ⟨hhigh, hlow⟩ := Bool.and_eq_true_iff.mp h
      exact formatBase_eq hop (field_three_eq_zero (Bool.eq_false_iff.mpr hbit) (fixedOk_strict_iff.mp hhigh))
        (fixedOk_strict_iff.mp hlow)
  case h_7 hop | h_8 hop => exact formatRRO6_eq hop
  case h_9 hop => exact encode_ite_illegal fun h => formatRTI_eq hop (fixedOk_strict_iff.mp h)
  case h_10 hop => exact encode_ite_illegal fun h => formatNOT_eq hop (fixedOk_strict_iff.mp h)
  case h_13 hop =>
    refine encode_ite_illegal fun h => ?_
    obtain ⟨hhigh, hlow⟩ := Bool.and_eq_true_iff.mp h
    exact formatBase_eq hop (fixedOk_strict_iff.mp hhigh) (fixedOk_strict_iff.mp hlow)
  case h_15 hop => exact encode_ite_illegal fun h => formatTRAP_eq hop (fixedOk_strict_iff.mp h)
  case h_16 => rfl

/-- Settles O3: each format filled in with a word's fields is the word, and no row of the opcode table has a word that
decodes as illegal. -/
theorem encodeOfDecodeIsTheWord : Obligations.EncodeOfDecodeIsTheWord := by
  unfold Obligations.EncodeOfDecodeIsTheWord
  exact ⟨encode_decode_strict, fun m w => ⟨decode_wellFormed m w, decode_core m w⟩⟩

end Sys2Proof
end

section
/-! The aliases, by the core instructions they stand for (30_encoding.md R87, R88), and what an entry leaves
(45_system.md R187, 60_exceptions.md R203, R213). -/

namespace Sys2Proof.Machine

/-- Every spelling has the effect of its core instruction (R87, R88, R90). -/
theorem exec_core (i : Instr) (s : State) : exec i.core s = exec i s := by cases i <;> rfl

/-! Branches. -/

theorem exec_br (n z p : Bool) (off : BitVec 9) (s : State) :
    exec (.br n z p off) s =
      .next (if s.psr.branchTaken n z p then { s with pc := s.pc + off.signExtend 16 } else s) := rfl

/-- Settles O30: each suffixed branch is BR with its mask. -/
theorem suffixedBranchesTestTheirFlags : Obligations.SuffixedBranchesTestTheirFlags := by
  unfold Obligations.SuffixedBranchesTestTheirFlags
  intro off s
  refine ⟨?_, ?_, ?_, ?_, ?_, ?_, ?_⟩ <;> rw [← exec_core, Instr.core, exec_br] <;> simp [Psr.branchTaken]

/-! Entries. -/

/-- `t` is `s` but for what a write does not read: the registers, PC, PSR and the saved user stack pointer. -/
def SameStore (s t : State) : Prop :=
  t = { s with regs := t.regs, pc := t.pc, psr := t.psr, savedUSP := t.savedUSP }

namespace SameStore
variable {s t : State}

theorem memory (h : SameStore s t) : t.memory = s.memory := by
  rw [SameStore] at h
  rw [h]

theorem setReg (h : SameStore s t) (r : Reg) (v : Word) : SameStore s (t.setReg r v) := by
  rw [SameStore] at h ⊢
  exact congrArg (State.setReg · r v) h

theorem setPc (h : SameStore s t) (a : Word) : SameStore s { t with pc := a } := by
  rw [SameStore] at h ⊢
  exact congrArg (fun u : State => { u with pc := a }) h

theorem memWrite (h : SameStore s t) (a v : Word) : SameStore (memWrite a v s) (memWrite a v t) := by
  rw [SameStore] at h
  rw [SameStore, h]
  unfold Machine.memWrite
  split_ifs <;> rfl

theorem push (h : SameStore s t) (v : Word) : SameStore (Machine.memWrite (t.reg regSP - 1) v s) (push v t) :=
  (h.setReg _ _).memWrite _ v

end SameStore

theorem sameStore_entryBase (pl : BitVec 3) (s : State) : SameStore s (entryBase pl s) := by
  unfold entryBase switchToSupervisor
  cases s.psr.mode <;> rfl

/-- The frame an entry pushes, as two writes below the stack it pushes from. -/
theorem sameStore_entryFrame (pl : BitVec 3) (s : State) :
    SameStore (memWrite (s.entryStack - 2) s.pc (memWrite (s.entryStack - 1) s.psr.pack s))
      (push s.pc (push s.psr.pack (entryBase pl s))) := by
  have hframe := ((sameStore_entryBase pl s).push s.psr.pack).push s.pc
  rwa [push_reg, if_pos rfl, entryBase_reg, if_pos rfl, sub_sub] at hframe

/-- From canonical memory, through an entry in plain memory, `enter` is the spec's entry. -/
theorem entersThrough_enter {tableEntry : Word} (htable : isDevice tableEntry = false) (pl : BitVec 3) {s : State}
    (hwf : s.memory.wf = true) : EntersThrough tableEntry pl s (enter tableEntry pl s) where
  pushes := by
    have hframe := sameStore_entryFrame pl s
    refine ⟨_, _, memWriteRoutesEveryAddress _ _ _ hwf, memWriteRoutesEveryAddress _ _ _ (memWrite_memory_wf hwf _ _),
      ?_, ?_⟩ <;> rw [enter_plain htable]
    · rw [hframe.memory]
    · exact hframe.setPc _
  sp := enter_reg tableEntry pl s 6
  others r hr := (enter_reg tableEntry pl s r).trans (if_neg hr)
  psr := enter_psr tableEntry pl s
  savedUSP := enter_savedUSP tableEntry pl s

/-- TRAP's entry in the spec's terms (R187). -/
theorem entersThrough_trapEntry (v : BitVec 8) {s : State} (hwf : s.memory.wf = true) :
    EntersThrough (v.setWidth 16) s.psr.pl s (trapEntry v s) := by
  have hentry : trapTableEntry v = v.setWidth 16 := BitVec.zero_add _
  exact hentry ▸ entersThrough_enter (isDevice_trapTableEntry v) s.psr.pl hwf

/-- A spelling of `TRAP v` enters through the vector of `v` (R88). -/
theorem exec_enters_of_core_eq_trap {i : Instr} (v : BitVec 8) (h : i.core = .trap v) {s : State}
    (hwf : s.memory.wf = true) : ∃ t, exec i s = .next t ∧ EntersThrough (v.setWidth 16) s.psr.pl s t :=
  ⟨trapEntry v s, by rw [← exec_core, h]; rfl, entersThrough_trapEntry v hwf⟩

/-- Settles O34: the core instruction of each of the six is a TRAP. -/
theorem trapAliasesEnterTheirServices : Obligations.TrapAliasesEnterTheirServices := by
  unfold Obligations.TrapAliasesEnterTheirServices
  simp only [List.forall_mem_cons]
  refine ⟨⟨by decide, fun s => exec_enters_of_core_eq_trap 0x20 rfl⟩,
    ⟨by decide, fun s => exec_enters_of_core_eq_trap 0x21 rfl⟩,
    ⟨by decide, fun s => exec_enters_of_core_eq_trap 0x22 rfl⟩,
    ⟨by decide, fun s => exec_enters_of_core_eq_trap 0x23 rfl⟩,
    ⟨by decide, fun s => exec_enters_of_core_eq_trap 0x24 rfl⟩,
    ⟨by decide, fun s => exec_enters_of_core_eq_trap 0x25 rfl⟩, by simp⟩

end Sys2Proof.Machine
end

section
/-! Words and instructions (40_encoder.md R117): decoding an instruction's word. -/

namespace Sys2Proof

/-- Settles O2: each constructor's round trip. -/
theorem decodeOfEncodeIsTheInstruction : Obligations.DecodeOfEncodeIsTheInstruction := by
  unfold Obligations.DecodeOfEncodeIsTheInstruction
  intro m i
  cases i with
  | addReg dr sr1 sr2 => exact Laws.RoundTrip.addReg dr sr1 sr2 m
  | addImm dr sr1 imm5 => exact Laws.RoundTrip.addImm dr sr1 imm5 m
  | andReg dr sr1 sr2 => exact Laws.RoundTrip.andReg dr sr1 sr2 m
  | andImm dr sr1 imm5 => exact Laws.RoundTrip.andImm dr sr1 imm5 m
  | not dr sr => exact Laws.RoundTrip.not dr sr m
  | br n z p off => exact Laws.RoundTrip.br n z p off m
  | jmp baseR => exact Laws.RoundTrip.jmp baseR m
  | jsr off => exact Laws.RoundTrip.jsr off m
  | jsrr baseR => exact Laws.RoundTrip.jsrr baseR m
  | ld dr off => exact Laws.RoundTrip.ld dr off m
  | ldi dr off => exact Laws.RoundTrip.ldi dr off m
  | ldr dr baseR off => exact Laws.RoundTrip.ldr dr baseR off m
  | lea dr off => exact Laws.RoundTrip.lea dr off m
  | st sr off => exact Laws.RoundTrip.st sr off m
  | sti sr off => exact Laws.RoundTrip.sti sr off m
  | str sr baseR off => exact Laws.RoundTrip.str sr baseR off m
  | rti => exact Laws.RoundTrip.rti m
  | trap v => exact Laws.RoundTrip.trap v m
  | illegal w => exact Laws.RoundTrip.illegal w m
  | ret => exact Laws.RoundTrip.ret m
  | getc => exact Laws.RoundTrip.getc m
  | out => exact Laws.RoundTrip.out m
  | puts => exact Laws.RoundTrip.puts m
  | inp => exact Laws.RoundTrip.inp m
  | putsp => exact Laws.RoundTrip.putsp m
  | halt => exact Laws.RoundTrip.halt m
  | brn off => exact Laws.RoundTrip.brn off m
  | brz off => exact Laws.RoundTrip.brz off m
  | brp off => exact Laws.RoundTrip.brp off m
  | brnz off => exact Laws.RoundTrip.brnz off m
  | brnp off => exact Laws.RoundTrip.brnp off m
  | brzp off => exact Laws.RoundTrip.brzp off m
  | brnzp off => exact Laws.RoundTrip.brnzp off m

end Sys2Proof
end

section
/-! The encoder's preconditions (40_encoder.md R101), read off the pattern's slots. -/

namespace Sys2Proof.Machine.Encoder

/-- A line has a shape when it has as many operands and each is of its kind (R101 (a)). -/
theorem shapeFits_iff {kinds : List OperandKind} {tokens : List Token} :
    shapeFits kinds tokens = true ↔ tokens.length = kinds.length ∧
      ∀ (k : Nat) (kind : OperandKind), kinds[k]? = some kind → ∃ t, tokens[k]? = some t ∧ kind.admits t = true := by
  induction kinds generalizing tokens with
  | nil => cases tokens <;> simp [shapeFits]
  | cons kind kinds ih =>
    cases tokens with
    | nil => simp [shapeFits]
    | cons t ts =>
      rw [shapeFits, Bool.and_eq_true, ih]
      conv_rhs => rw [← Nat.and_forall_add_one]
      simp [and_left_comm]

/-- Every row of the catalog takes its operands in slot order, each once (R114). -/
theorem filterMap_operand_slots (p : Pattern) :
    p.slots.filterMap Slot.operand = p.shape.zipIdx.map Prod.swap := by
  cases p <;> rfl

/-- The `k`-th kind of a shape is what the slot that takes operand `k` takes. -/
theorem shape_getElem?_eq_some_iff {p : Pattern} {k : Nat} {kind : OperandKind} :
    p.shape[k]? = some kind ↔ ∃ sl ∈ p.slots, sl.operand = some (k, kind) := by
  rw [← List.mem_filterMap, filterMap_operand_slots, ← Prod.swap_prod_mk, List.mem_map_of_injective Prod.swap_injective,
    List.mem_zipIdx_iff_getElem?]

theorem shape_length (p : Pattern) : p.shape.length = p.slots.countP takesOperand := by
  cases p <;> rfl

/-! What each kind admits (R103). -/

@[simp] theorem admits_register_iff {t : Token} : OperandKind.register.admits t = true ↔ ∃ r, t = .reg r := by
  cases t <;> simp [OperandKind.admits]

@[simp] theorem admits_number_iff {t : Token} : OperandKind.number.admits t = true ↔ ∃ v, t = .num v := by
  cases t <;> simp [OperandKind.admits]

@[simp] theorem admits_numberOrLabel_iff {t : Token} :
    OperandKind.numberOrLabel.admits t = true ↔ (∃ v, t = .num v) ∨ ∃ x, t = .lbl x := by
  cases t <;> simp [OperandKind.admits]

/-- A slot is served by a token of the kind it takes. -/
theorem slotServed_iff {tokens : List Token} {sl : Slot} : slotServed tokens sl ↔
    ∀ k kind, sl.operand = some (k, kind) → ∃ t, tokens[k]? = some t ∧ kind.admits t = true := by
  cases sl <;> simp [slotServed, Slot.operand, and_or_left, exists_or]

theorem all_registerOk_iff {tokens : List Token} :
    tokens.all Token.registerOk = true ↔ ∀ r, Token.reg r ∈ tokens → r ≤ 7 := by
  rw [List.all_eq_true]
  constructor
  · exact fun h r hr => of_decide_eq_true (h _ hr)
  · rintro h (r | v | x) ht
    · exact decide_eq_true (h r ht)
    · rfl
    · rfl

/-- The model's test is what R101 asks of the slots. -/
theorem preconditions_iff {p : Pattern} {tokens : List Token} :
    preconditions p tokens = true ↔ MeetsPreconditions p tokens := by
  have hkinds : (∀ (k : Nat) (kind : OperandKind), p.shape[k]? = some kind →
      ∃ t, tokens[k]? = some t ∧ kind.admits t = true) ↔ ∀ sl ∈ p.slots, slotServed tokens sl := by
    simp only [slotServed_iff, shape_getElem?_eq_some_iff]
    exact ⟨fun h sl hsl k kind hop => h k kind ⟨sl, hsl, hop⟩, fun h k kind ⟨sl, hsl, hop⟩ => h sl hsl k kind hop⟩
  rw [preconditions, Bool.and_eq_true, shapeFits_iff, all_registerOk_iff, shape_length, hkinds]
  exact ⟨fun ⟨⟨hcount, hserved⟩, hregs⟩ => ⟨hcount, hserved, hregs⟩, fun ⟨hcount, hserved, hregs⟩ =>
    ⟨⟨hcount, hserved⟩, hregs⟩⟩

/-! A line that meets the preconditions gets what its slots gather to (R109, R110). -/

section
variable {p : Pattern} {tokens : List Token} {lineAddr : Word} {labels : LabelMap}

theorem encodeLine_eq_word {w : Word} (h : preconditions p tokens = true)
    (hgather : gather tokens lineAddr labels p.slots 0 = .ok w) : encodeLine p tokens lineAddr labels = .word w := by
  rw [encodeLine, if_pos h, hgather]

theorem encodeLine_eq_error {e : EncodingError} (h : preconditions p tokens = true)
    (hgather : gather tokens lineAddr labels p.slots 0 = .error e) :
    encodeLine p tokens lineAddr labels = .error e := by
  rw [encodeLine, if_pos h, hgather]

end

/-- Settles O9: the model's test is R101's, and a line that passes it gets what its slots gather to. -/
theorem encoderRefusesExactlyBrokenPreconditions : Obligations.EncoderRefusesExactlyBrokenPreconditions := by
  unfold Obligations.EncoderRefusesExactlyBrokenPreconditions
  intro p tokens lineAddr labels
  rw [← preconditions_iff]
  refine ⟨fun h => ?_, fun h => if_neg h⟩
  cases hgather : gather tokens lineAddr labels p.slots 0 with
  | ok w => exact .inl ⟨w, encodeLine_eq_word h hgather⟩
  | error e => exact .inr ⟨e, encodeLine_eq_error h hgather⟩

end Sys2Proof.Machine.Encoder
end

section
/-! Range checks and labels (40_encoder.md R105 to R110): a line has at most one slot that checks a value. -/

namespace Sys2Proof.Machine.Encoder

/-- The field a slot checks its operand's integer against, and its range (R105, R118). -/
def Slot.check : Slot → Option (FieldName × Int × Int)
  | .fixed _ _ _ => none
  | .regS _ _ _ => none
  | .immS hi lo _ sign name => some (name, range sign (hi - lo + 1))
  | .offS hi lo _ name => some (name, range .signed (hi - lo + 1))
  | .absS _ _ _ => some (.fill16, -32768, 65535)

/-- A pattern checks its one integer field, against that field's range (R113, R114). -/
theorem filterMap_check_slots (p : Pattern) :
    p.slots.filterMap Slot.check = (p.numericField.map fun name => (name, name.legal)).toList := by
  cases p <;> rfl

theorem checked_slot_unique (p : Pattern) :
    ∀ sl ∈ p.slots, ∀ sl' ∈ p.slots, sl.check.isSome → sl'.check.isSome → sl = sl' := by
  cases p <;> decide

section
variable {p : Pattern} {sl : Slot} {slots : List Slot} {tokens : List Token} {lineAddr : Word} {labels : LabelMap}
  {e : EncodingError}

/-- Only a slot that checks its operand can fail. -/
theorem check_isSome_of_error (hfail : slotBits tokens lineAddr labels sl = .error e) : sl.check.isSome := by
  cases sl with
  | fixed => cases hfail
  | regS => rw [slotBits] at hfail; split at hfail <;> cases hfail
  | immS | offS | absS => rfl

/-- The error of the one slot that fails is the line's. -/
theorem gather_eq_error (hmem : sl ∈ slots) (hfail : slotBits tokens lineAddr labels sl = .error e)
    (hothers : ∀ sl' ∈ slots, sl' ≠ sl → ∃ b, slotBits tokens lineAddr labels sl' = .ok b) (acc : Word) :
    gather tokens lineAddr labels slots acc = .error e := by
  induction slots generalizing acc with
  | nil => cases hmem
  | cons first rest ih =>
    rw [List.forall_mem_cons] at hothers
    obtain ⟨hfirst, hrest⟩ := hothers
    rw [gather]
    rcases eq_or_ne first sl with rfl | hne
    · rw [hfail]
    · obtain ⟨b, hb⟩ := hfirst hne
      rw [hb]
      exact ih (List.mem_of_ne_of_mem hne.symm hmem) hrest _

/-- A slot's failure is the line's error, since the pattern's other slots check nothing. -/
theorem encodeLine_eq_error_of_slot (h : preconditions p tokens = true) (hmem : sl ∈ p.slots)
    (hfail : slotBits tokens lineAddr labels sl = .error e) :
    encodeLine p tokens lineAddr labels = .error e := by
  have hothers : ∀ sl' ∈ p.slots, sl' ≠ sl → ∃ b, slotBits tokens lineAddr labels sl' = .ok b := by
    intro sl' hmem' hne
    cases hbits : slotBits tokens lineAddr labels sl' with
    | ok b => exact ⟨b, rfl⟩
    | error e' =>
      exact absurd (checked_slot_unique p sl' hmem' sl hmem (check_isSome_of_error hbits)
        (check_isSome_of_error hfail)) hne
  exact encodeLine_eq_error h (gather_eq_error hmem hfail hothers 0)

/-- Every operand of a line that meets the preconditions is taken by a slot. -/
theorem exists_slot_of_mem {t : Token} (h : preconditions p tokens = true) (ht : t ∈ tokens) :
    ∃ sl ∈ p.slots, ∃ k kind, sl.operand = some (k, kind) ∧ tokens[k]? = some t ∧ kind.admits t = true := by
  rw [preconditions, Bool.and_eq_true, shapeFits_iff] at h
  obtain ⟨⟨hcount, hkinds⟩, -⟩ := h
  obtain ⟨k, hk⟩ := List.mem_iff_getElem?.mp ht
  obtain ⟨hlt, -⟩ := List.getElem?_eq_some_iff.mp hk
  have hkind := List.getElem?_eq_getElem (hcount ▸ hlt)
  obtain ⟨sl, hsl, hop⟩ := shape_getElem?_eq_some_iff.mp hkind
  obtain ⟨t', ht', hadmits⟩ := hkinds k _ hkind
  obtain rfl := Option.some.inj (hk.symm.trans ht')
  exact ⟨sl, hsl, k, _, hop, hk, hadmits⟩

/-- A slot that takes a label fails on one with no address (R108, R118). -/
theorem slotBits_unresolved {k : Nat} {kind : OperandKind} {x : String} (hop : sl.operand = some (k, kind))
    (hadmits : kind.admits (.lbl x) = true) (ht : tokens[k]? = some (.lbl x)) (hx : labels.lookup x = none) :
    slotBits tokens lineAddr labels sl = .error (.unresolvedLabel x) := by
  cases sl with
  | fixed => cases hop
  | regS | immS => cases hop; cases hadmits
  | offS | absS => cases hop; simp [slotBits, ht, labelAddress, hx]

end

/-- Settles O7: the slot that takes the label fails, and no other slot can. -/
theorem unresolvedLabelFails : Obligations.UnresolvedLabelFails := by
  unfold Obligations.UnresolvedLabelFails
  intro p tokens x lineAddr labels h hmem hx
  obtain ⟨sl, hsl, k, kind, hop, ht, hadmits⟩ := exists_slot_of_mem h hmem
  exact encodeLine_eq_error_of_slot h hsl (slotBits_unresolved hop hadmits ht hx)

/-! Labels (R107). -/

/-- Where a number or a label may stand, a shape does not tell them apart. -/
theorem shapeFits_append_lbl {kinds : List OperandKind} (h : .number ∉ kinds) (before : List Token) (x : String)
    (d : Int) : shapeFits kinds (before ++ [.lbl x]) = shapeFits kinds (before ++ [.num d]) := by
  induction before generalizing kinds with
  | nil =>
    cases kinds with
    | nil => rfl
    | cons kind kinds =>
      cases kind with
      | register | numberOrLabel => rfl
      | number => exact absurd List.mem_cons_self h
  | cons t ts ih =>
    cases kinds with
    | nil => rfl
    | cons kind kinds => exact congrArg (kind.admits t && ·) (ih (List.not_mem_of_not_mem_cons h))

/-- An operand is one of those before the last, whatever the last is, or it is the last. -/
theorem getElem?_append_singleton (before : List Token) (k : Nat) :
    (∀ t, (before ++ [t])[k]? = before[k]?) ∨ ∀ t, (before ++ [t])[k]? = some t := by
  rcases lt_trichotomy k before.length with hlt | rfl | hgt
  · exact .inl fun t => List.getElem?_append_left hlt
  · exact .inr fun t => List.getElem?_concat_length
  · refine .inl fun t => ?_
    rw [List.getElem?_eq_none hgt.le, List.getElem?_eq_none (by simpa using hgt)]

/-- What a slot in `p.slots` checks is the pattern's integer field, against the field's range (R113). -/
theorem numericField_of_check {p : Pattern} {sl : Slot} {name : FieldName} {bounds : Int × Int} (hmem : sl ∈ p.slots)
    (hcheck : sl.check = some (name, bounds)) : p.numericField = some name ∧ bounds = name.legal := by
  have hmem' := List.mem_filterMap.mpr ⟨sl, hmem, hcheck⟩
  rw [filterMap_check_slots, Option.mem_toList, Option.map_eq_some_iff] at hmem'
  obtain ⟨name', hname, heq⟩ := hmem'
  cases heq
  exact ⟨hname, rfl⟩

/-- The patterns with a PC offset take a label wherever they take a number. -/
theorem number_not_mem_shape {p : Pattern} (h : p.numericField = some .pcOffset9 ∨ p.numericField = some .pcOffset11) :
    .number ∉ p.shape := by
  revert h
  cases p <;> decide

section
variable {p : Pattern} {sl : Slot} {slots : List Slot} {tokens tokens' before : List Token} {x : String}
  {target lineAddr : Word} {labels : LabelMap}

theorem gather_congr (h : ∀ sl ∈ slots, slotBits tokens lineAddr labels sl = slotBits tokens' lineAddr labels sl)
    (acc : Word) : gather tokens lineAddr labels slots acc = gather tokens' lineAddr labels slots acc := by
  induction slots generalizing acc with
  | nil => rfl
  | cons first rest ih =>
    rw [List.forall_mem_cons] at h
    obtain ⟨hfirst, hrest⟩ := h
    rw [gather, gather, hfirst]
    cases slotBits tokens' lineAddr labels first with
    | ok b => exact ih hrest _
    | error e => rfl

/-- A slot that may take a label but not its address reads a last label as its displacement. -/
theorem slotBits_append_lbl (hnumber : ∀ k, sl.operand ≠ some (k, .number)) (habs : ∀ hi lo k, sl ≠ .absS hi lo k)
    (hx : labels.lookup x = some target) (before : List Token) :
    slotBits (before ++ [.lbl x]) lineAddr labels sl =
      slotBits (before ++ [.num (displacement target lineAddr)]) lineAddr labels sl := by
  cases sl with
  | fixed => rfl
  | regS hi lo k | offS hi lo k =>
    rcases getElem?_append_singleton before k with hk | hk <;> simp [slotBits, hk, labelAddress, hx]
  | immS hi lo k => exact absurd rfl (hnumber k)
  | absS hi lo k => exact absurd rfl (habs hi lo k)

theorem preconditions_append_lbl (h : .number ∉ p.shape) (before : List Token) (x : String) (d : Int) :
    preconditions p (before ++ [.lbl x]) = preconditions p (before ++ [.num d]) := by
  simp [preconditions, shapeFits_append_lbl h before x d, Token.registerOk]

end

/-- Settles O6: the two lines meet the preconditions alike, and every slot reads them alike. -/
theorem labelEncodesAsItsDisplacement : Obligations.LabelEncodesAsItsDisplacement := by
  unfold Obligations.LabelEncodesAsItsDisplacement
  intro p before x target lineAddr labels hfield hx
  have hshape := number_not_mem_shape hfield
  have hslots : ∀ sl ∈ p.slots, slotBits (before ++ [.lbl x]) lineAddr labels sl =
      slotBits (before ++ [.num (displacement target lineAddr)]) lineAddr labels sl := by
    intro sl hsl
    refine slotBits_append_lbl (fun k hop => ?_) (fun hi lo k habs => ?_) hx before
    · exact hshape (List.mem_of_getElem? (shape_getElem?_eq_some_iff.mpr ⟨sl, hsl, hop⟩))
    · subst habs
      obtain ⟨hfill, -⟩ := numericField_of_check hsl rfl
      simp [hfill] at hfield
  rw [← displacement, encodeLine, encodeLine, preconditions_append_lbl hshape before x, gather_congr hslots]

end Sys2Proof.Machine.Encoder
end

section
/-! The word a line's slots gather to (40_encoder.md R109, R114), and its round trip (R117). -/

namespace Sys2Proof.Machine.Encoder

/-! Slots in descending bit order are a format's fields in order (R104). -/

/-- The integer a slot places in the word of a line whose integer operand is `v`. -/
def Slot.value (tokens : List Token) (v : Int) : Slot → Int
  | .fixed _ _ c => c
  | .regS _ _ k => (lineReg tokens k).val
  | .immS _ _ _ _ _ => v
  | .offS _ _ _ _ => v
  | .absS _ _ _ => v

/-- The word whose upper bits are `x` and whose lower fields are the slots' values. -/
def appendFields (tokens : List Token) (v : Int) {k : Nat} (x : BitVec k) : List Slot → Word
  | [] => x.setWidth 16
  | sl :: rest =>
    appendFields tokens v (x ++ BitVec.ofInt (sl.bits.1 - sl.bits.2 + 1) (sl.value tokens v)) rest

/-- A field placed right below the fields gathered so far extends them. -/
theorem or_place {k hi lo : Nat} (h : lo ≤ hi) (x : BitVec k) (v : Int) :
    x.setWidth 16 <<< (hi + 1) ||| place hi lo v = (x ++ BitVec.ofInt (hi - lo + 1) v).setWidth 16 <<< lo := by
  ext i hi16
  simp only [place, BitVec.getElem_or, BitVec.getElem_shiftLeft, BitVec.getElem_setWidth, BitVec.getLsbD_append]
  grind

/-- A register's number, as the bits of its field. -/
theorem ofNat_eq_bits (r : Reg) : BitVec.ofNat 3 r.val = r.bits := by
  decide +revert

section
variable {p : Pattern} {sl : Slot} {slots : List Slot} {tokens : List Token} {lineAddr : Word} {labels : LabelMap}
  {name : FieldName} {v : Int}

/-- Slots that cover the bits below `x` once, each answering its value placed, append their fields to `x`. -/
theorem gather_eq_appendFields {n k : Nat} (hcovers : coversFrom n slots = true)
    (hslots : ∀ sl ∈ slots, slotBits tokens lineAddr labels sl = .ok (place sl.bits.1 sl.bits.2 (sl.value tokens v)))
    (x : BitVec k) :
    gather tokens lineAddr labels slots (x.setWidth 16 <<< n) = .ok (appendFields tokens v x slots) := by
  induction slots generalizing n k with
  | nil =>
    rw [coversFrom, beq_iff_eq] at hcovers
    rw [hcovers, BitVec.shiftLeft_zero]
    rfl
  | cons sl rest ih =>
    rw [List.forall_mem_cons] at hslots
    obtain ⟨hsl, hrest⟩ := hslots
    simp only [coversFrom, Bool.and_eq_true, decide_eq_true_eq] at hcovers
    obtain ⟨⟨rfl, hle⟩, hcovers⟩ := hcovers
    rw [gather, hsl, appendFields, ← ih hcovers hrest, ← or_place hle]

/-- A pattern's fields are those of its instruction's format, in the same order (R114). -/
theorem appendFields_slots {i : Instr} (h : p.instr tokens v = some i) :
    appendFields tokens v 0#0 p.slots = encode i := by
  cases p with
  | fill => cases h
  | _ =>
    cases h
    simp only [Pattern.slots, slotsRRR, slotsRRI, slotsBR, slotsRPC9, slotsRRO6, slotsBase, slotsTrapAlias,
      encode, formatRRR, formatRRI, formatNOT, formatBR, formatRPC9, formatRRO6, formatBase, formatJSR, formatRTI,
      formatTRAP, appendFields, Slot.bits, Slot.value, BitVec.ofInt_natCast, ← ofNat_eq_bits]
    rfl

/-! What each slot of a line answers. -/

theorem coversFrom_slots (p : Pattern) : coversFrom 16 p.slots = true := by
  cases p <;> decide

/-- Only `.FILL` takes an address (R118). -/
theorem absS_not_mem_slots (hfill : p ≠ .fill) (hi lo k : Nat) : .absS hi lo k ∉ p.slots := by
  have honly : ∀ p : Pattern, p.numericField = some .fill16 → p = .fill := by
    intro p
    cases p <;> decide
  exact fun hmem => hfill (honly p (numericField_of_check hmem rfl).1)

/-- A slot that checks nothing takes no integer. -/
theorem check_isSome_of_operandInt {k : Nat} {kind : OperandKind} {t : Token} (hop : sl.operand = some (k, kind))
    (hadmits : kind.admits t = true) (hint : t.operandInt lineAddr labels = some v) : sl.check.isSome := by
  cases sl with
  | fixed => cases hop
  | regS =>
    cases hop
    obtain ⟨r, rfl⟩ := admits_register_iff.mp hadmits
    cases hint
  | immS | offS | absS => rfl

/-- The slot that checks takes the line's integer: the other operands are registers (R110). -/
theorem slotBits_of_check (h : preconditions p tokens = true) (hfill : p ≠ .fill) (hmem : sl ∈ p.slots)
    {bounds : Int × Int} (hcheck : sl.check = some (name, bounds)) (hv : lineInt tokens lineAddr labels = some v) :
    slotBits tokens lineAddr labels sl = placeChecked sl.bits.1 sl.bits.2 bounds name v := by
  obtain ⟨t, ht, hint⟩ := List.exists_of_findSome?_eq_some hv
  obtain ⟨sl', hmem', k, kind, hop, hk, hadmits⟩ := exists_slot_of_mem h ht
  obtain rfl := checked_slot_unique p sl' hmem' sl hmem (check_isSome_of_operandInt hop hadmits hint) (by simp [hcheck])
  cases sl' with
  | fixed | regS => cases hcheck
  | absS hi lo k => exact absurd hmem (absS_not_mem_slots hfill hi lo k)
  | immS =>
    cases hop
    cases hcheck
    obtain ⟨w, rfl⟩ := admits_number_iff.mp hadmits
    cases hint
    simp only [slotBits, hk, Slot.bits]
  | offS =>
    cases hop
    cases hcheck
    obtain ⟨w, rfl⟩ | ⟨x, rfl⟩ := admits_numberOrLabel_iff.mp hadmits
    · cases hint
      simp only [slotBits, hk, Slot.bits]
    · obtain ⟨target, hx, rfl⟩ := Option.map_eq_some_iff.mp hint
      simp only [slotBits, hk, labelAddress, hx, Slot.bits]

/-- A register token 0 to 7 is the register of that number (R101). -/
theorem lineReg_val {k r : Nat} (hk : tokens[k]? = some (.reg r)) (hr : r ≤ 7) : (lineReg tokens k).val = r := by
  rw [lineReg, hk]
  exact Nat.mod_eq_of_lt (Nat.lt_succ_of_le hr)

/-- A slot that checks nothing places its value: a fixed one, or its register's number. -/
theorem slotBits_of_check_eq_none (h : preconditions p tokens = true) (hmem : sl ∈ p.slots) (hcheck : sl.check = none) :
    slotBits tokens lineAddr labels sl = .ok (place sl.bits.1 sl.bits.2 (sl.value tokens v)) := by
  obtain ⟨-, hserved, hregs⟩ := preconditions_iff.mp h
  cases sl with
  | fixed => rfl
  | regS hi lo k =>
    obtain ⟨r, hk⟩ := hserved _ hmem
    rw [Slot.value, lineReg_val hk (hregs r (List.mem_of_getElem? hk)), slotBits, hk]
    rfl
  | immS | offS | absS => cases hcheck

theorem value_of_check (hcheck : sl.check.isSome) : sl.value tokens v = v := by
  cases sl with
  | fixed | regS => cases hcheck
  | immS | offS | absS => rfl

theorem placeChecked_eq_ok {hi lo : Nat} {bounds : Int × Int} (hlo : bounds.1 ≤ v) (hhi : v ≤ bounds.2) :
    placeChecked hi lo bounds name v = .ok (place hi lo v) := if_neg (by omega)

/-! The line. -/

/-- In range, the line's word is that of its instruction. -/
theorem encodeLine_eq_encode {i : Instr} (h : preconditions p tokens = true) (hi : p.instr tokens v = some i)
    (hinRange : ∀ name, p.numericField = some name →
      lineInt tokens lineAddr labels = some v ∧ name.legal.1 ≤ v ∧ v ≤ name.legal.2) :
    encodeLine p tokens lineAddr labels = .word (encode i) := by
  have hfill : p ≠ .fill := by
    rintro rfl
    cases hi
  have hslots : ∀ sl ∈ p.slots,
      slotBits tokens lineAddr labels sl = .ok (place sl.bits.1 sl.bits.2 (sl.value tokens v)) := by
    intro sl hmem
    cases hcheck : sl.check with
    | none => exact slotBits_of_check_eq_none h hmem hcheck
    | some c =>
      obtain ⟨name, bounds⟩ := c
      obtain ⟨hname, rfl⟩ := numericField_of_check hmem hcheck
      obtain ⟨hv, hlo, hhi⟩ := hinRange name hname
      rw [slotBits_of_check h hfill hmem hcheck hv, placeChecked_eq_ok hlo hhi, value_of_check (by simp [hcheck])]
  exact encodeLine_eq_word h
    ((gather_eq_appendFields (coversFrom_slots p) hslots 0#0).trans (congrArg _ (appendFields_slots hi)))

/-- Out of range, the line's error names its field and the field's range. -/
theorem encodeLine_eq_outOfRange (h : preconditions p tokens = true) (hfill : p ≠ .fill)
    (hname : p.numericField = some name) (hv : lineInt tokens lineAddr labels = some v)
    (hout : v < name.legal.1 ∨ name.legal.2 < v) :
    encodeLine p tokens lineAddr labels = .error (.outOfRange name name.legal.1 name.legal.2) := by
  have hcheck : (name, name.legal) ∈ p.slots.filterMap Slot.check := by
    simp [filterMap_check_slots, hname]
  obtain ⟨sl, hmem, hcheck⟩ := List.mem_filterMap.mp hcheck
  exact encodeLine_eq_error_of_slot h hmem ((slotBits_of_check h hfill hmem hcheck hv).trans (if_pos hout))

/-! The instruction a line stands for. -/

theorem exists_instr (hfill : p ≠ .fill) (tokens : List Token) (v : Int) : ∃ i, p.instr tokens v = some i := by
  cases p with
  | fill => exact absurd rfl hfill
  | _ => exact ⟨_, rfl⟩

theorem decode_encode_instr {i : Instr} (hi : p.instr tokens v = some i) (m : FixedBits) :
    decode m (encode i) = i.core := by
  refine decodeOfEncodeIsTheInstruction m i ?_
  cases p <;> cases hi <;> rfl

/-- A signed field holds every integer of its range. -/
theorem toInt_ofInt_of_legal {n : Nat} (hn : 0 < n) (hlegal : name.legal = range .signed n) (hlo : name.legal.1 ≤ v)
    (hhi : v ≤ name.legal.2) : (BitVec.ofInt n v).toInt = v := by
  rw [hlegal] at hlo hhi
  exact BitVec.toInt_ofInt_eq_self hn hlo (Int.lt_of_le_sub_one hhi)

/-- A line's instruction keeps the line's integer, if it is in its field's range. -/
theorem numericOperand_core_instr {i : Instr} (hi : p.instr tokens v = some i) (hname : p.numericField = some name)
    (hlo : name.legal.1 ≤ v) (hhi : v ≤ name.legal.2) : numericOperand i.core = some v := by
  cases p with
  | addI | andI | ldr | str | br | brn | brz | brp | brnz | brnp | brzp | brnzp | ld | ldi | lea | st | sti | jsr =>
    cases hi
    cases hname
    exact congrArg some (toInt_ofInt_of_legal (by decide) rfl hlo hhi)
  | trap =>
    cases hi
    cases hname
    have hnat : ((BitVec.ofInt 8 v).toNat : Int) = v := by
      rw [BitVec.toNat_ofInt, Int.toNat_of_nonneg (Int.emod_nonneg v (by decide))]
      exact Int.emod_eq_of_lt hlo (Int.lt_add_one_of_le hhi)
    exact congrArg some hnat
  | fill => cases hi
  | addR | andR | not | jmp | ret | jsrr | rti | getc | out | puts | inp | putsp | halt => cases hname

end

/-- Settles O5: in range, the slots gather to the word of the line's instruction, which decodes to it; out of range, the
slot that checks fails. -/
theorem encoderRoundTrip : Obligations.EncoderRoundTrip := by
  unfold Obligations.EncoderRoundTrip
  intro m p tokens lineAddr labels hfill h
  refine ⟨fun hnone => ?_, fun name v hname hv => ⟨fun hlo hhi => ?_, encodeLine_eq_outOfRange h hfill hname hv⟩⟩
  · obtain ⟨i, hi⟩ := exists_instr hfill tokens 0
    have hword : encodeLine p tokens lineAddr labels = .word (encode i) :=
      encodeLine_eq_encode h hi fun name hname => by rw [hnone] at hname; cases hname
    exact ⟨encode i, i, hword, hi, decode_encode_instr hi m⟩
  · obtain ⟨i, hi⟩ := exists_instr hfill tokens v
    have hword : encodeLine p tokens lineAddr labels = .word (encode i) := by
      refine encodeLine_eq_encode h hi fun name' hname' => ?_
      obtain rfl := Option.some.inj (hname.symm.trans hname')
      exact ⟨hv, hlo, hhi⟩
    have hdecode := decode_encode_instr hi m
    exact ⟨encode i, i, hword, hi, hdecode, hdecode ▸ numericOperand_core_instr hi hname hlo hhi⟩

/-! `.FILL` (R118). -/

section
variable {t : Token} {lineAddr : Word} {labels : LabelMap}

theorem encodeLine_fill_eq_word {w : Word} (h : preconditions .fill [t] = true)
    (hslot : slotBits [t] lineAddr labels (.absS 15 0 0) = .ok w) :
    encodeLine .fill [t] lineAddr labels = .word w := by
  refine encodeLine_eq_word h ?_
  rw [Pattern.slots, gather, hslot]
  exact congrArg Except.ok BitVec.zero_or

/-- A whole word placed is the value modulo 2^16 (R106). -/
theorem place_word (v : Int) : place 15 0 v = BitVec.ofNat 16 (v % 65536).toNat := by
  rw [place, BitVec.shiftLeft_zero]
  exact (BitVec.setWidth_eq _).trans (BitVec.ofNatLT_eq_ofNat _)

end

/-- Settles O8: `.FILL` is its one slot. -/
theorem fillEncodesValuesAndAddresses : Obligations.FillEncodesValuesAndAddresses := by
  unfold Obligations.FillEncodesValuesAndAddresses
  refine fun lineAddr labels => ⟨fun v hlo hhi => ?_, fun v hout => ?_, fun x target hx => ?_, fun x hx => ?_⟩
  · rw [← place_word]
    exact encodeLine_fill_eq_word rfl (placeChecked_eq_ok hlo hhi)
  · exact encodeLine_eq_error_of_slot rfl List.mem_cons_self (if_pos hout)
  · refine encodeLine_fill_eq_word rfl ?_
    simp [slotBits, labelAddress, hx]
  · exact unresolvedLabelFails _ _ _ _ _ rfl List.mem_cons_self hx

end Sys2Proof.Machine.Encoder
end

section
/-! The step and its boundary (41_execution_cycle.md R127 to R135, R139, R142; 60_exceptions.md R198). -/

namespace Sys2Proof.Machine

/-! When a step runs (R135). -/

section
variable {s : State}

theorem State.active_iff : s.active = true ↔ s.engine = .running ∨ s.engine = .singleStep := by
  unfold State.active
  cases s.engine <;> simp

theorem State.active_eq_false_iff : s.active = false ↔ s.engine = .stopped ∨ s.engine = .halted := by
  unfold State.active
  cases s.engine <;> simp

theorem step_of_active (h : s.active = true) : step s = atBoundary (fetchAndExecute s) := if_pos h

theorem step_of_not_active (h : s.active = false) : step s = .next s := if_neg (Bool.eq_false_iff.mp h)

theorem fetchAndExecute_of_violates (h : s.violates s.pc = true) :
    fetchAndExecute s = .next (fetchAccessViolation s) := if_pos h

theorem fetchAndExecute_of_not_violates (h : s.violates s.pc = false) :
    fetchAndExecute s = exec (decode s.params.decodeFixedBits (fetch s).1) (fetch s).2 :=
  if_neg (Bool.eq_false_iff.mp h)

end

/-- Settles O52: what is not active answers itself, and the two host actions act only when stopped. -/
theorem noStepRunsWhileStoppedOrHalted : Obligations.NoStepRunsWhileStoppedOrHalted := by
  unfold Obligations.NoStepRunsWhileStoppedOrHalted
  refine ⟨fun s h => step_of_not_active (State.active_eq_false_iff.mpr h), fun s budget n h => ?_⟩
  simp [State.run, State.singleStep, h]

/-! Every answer is a next state (R142, R198). -/

theorem loadFrom_completes (dr : Reg) (ea : Word) (s : State) : ∃ t, loadFrom dr ea s = .next t :=
  ⟨_, loadFrom_eq dr ea s⟩

theorem storeTo_completes (sr : Reg) (ea : Word) (s : State) : ∃ t, storeTo sr ea s = .next t :=
  ⟨_, storeTo_eq sr ea s⟩

theorem throughPointer_completes {access : Word → State → Result} (haccess : ∀ ea u, ∃ t, access ea u = .next t)
    (pa : Word) (s : State) : ∃ t, throughPointer pa s access = .next t := by
  rw [throughPointer_eq]
  split
  · exact ⟨_, rfl⟩
  · exact haccess _ _

theorem execRti_completes (s : State) : ∃ t, execRti s = .next t := by
  unfold execRti
  cases s.psr.mode <;> exact ⟨_, rfl⟩

theorem exec_completes (i : Instr) (s : State) : ∃ t, exec i s = .next t := by
  cases i with
  | ld | ldr => exact loadFrom_completes _ _ s
  | st | str => exact storeTo_completes _ _ s
  | ldi dr => exact throughPointer_completes (loadFrom_completes dr) _ s
  | sti sr => exact throughPointer_completes (storeTo_completes sr) _ s
  | rti => exact execRti_completes s
  | addReg | addImm | andReg | andImm | not | lea | br | brn | brz | brp | brnz | brnp | brzp | brnzp | jmp | ret
  | jsr | jsrr | trap | getc | out | puts | inp | putsp | halt | illegal => exact ⟨_, rfl⟩

theorem fetchAndExecute_completes (s : State) : ∃ t, fetchAndExecute s = .next t := by
  cases h : s.violates s.pc
  · exact fetchAndExecute_of_not_violates h ▸ exec_completes _ _
  · exact ⟨_, fetchAndExecute_of_violates h⟩

theorem step_completes (s : State) : ∃ t, step s = .next t := by
  cases h : s.active
  · exact ⟨s, step_of_not_active h⟩
  · obtain ⟨u, hu⟩ := fetchAndExecute_completes s
    exact ⟨boundary u, by rw [step_of_active h, hu, atBoundary]⟩

/-- Settles O40: each instruction by its shared ending, the step by its own cases. -/
theorem everyInstructionAndStepCompletes : Obligations.EveryInstructionAndStepCompletes := by
  unfold Obligations.EveryInstructionAndStepCompletes
  exact ⟨exec_completes, step_completes⟩

/-! The fetch (R127 to R129). -/

/-- Settles O47: the fetch is the given read, with PC incremented after it. -/
theorem stepRunsTheDecodedInstruction : Obligations.StepRunsTheDecodedInstruction := by
  unfold Obligations.StepRunsTheDecodedInstruction
  rintro s i w s1 hengine hallowed hread rfl
  have hfetch : fetch s = (w, { s1 with pc := s1.pc + 1 }) := by rw [fetch, hread]
  rw [step_of_active (State.active_iff.mpr hengine), fetchAndExecute_of_not_violates hallowed, hfetch]

/-- From canonical memory, an exception's entry in the spec's terms (R203). -/
theorem takesException_exceptionEntry (e : Machine.Exception) {s : State} (hwf : s.memory.wf = true) :
    TakesException (e.vector.setWidth 16) s (exceptionEntry e s) :=
  entersThrough_enter (isDevice_interruptTableEntry e.vector) s.psr.pl hwf

/-- Settles O48: the access violation is entered from the state whose PC is incremented. -/
theorem fetchOutsideWindowTakesAcv : Obligations.FetchOutsideWindowTakesAcv := by
  unfold Obligations.FetchOutsideWindowTakesAcv
  intro s hengine hviolates hwf
  refine ⟨fetchAccessViolation s, takesException_exceptionEntry .accessViolation hwf, ?_⟩
  rw [step_of_active (State.active_iff.mpr hengine), fetchAndExecute_of_violates hviolates, atBoundary]

/-! The boundary (R133, R134). -/

/-- Settles O49: the halt check comes first, and ends the boundary. -/
theorem clearedClockHaltsAtTheBoundary : Obligations.ClearedClockHaltsAtTheBoundary := by
  unfold Obligations.ClearedClockHaltsAtTheBoundary
  exact fun s hoff => if_neg (Bool.eq_false_iff.mp hoff)

/-- A budget is used up by the step that just ended when at most that step was left of it (R134 (b)). -/
theorem budgetAfterStep_eq_zero_iff (s : State) :
    s.budgetAfterStep = some 0 ↔ ∃ n, s.budget = some n ∧ n ≤ 1 := by
  simp [State.budgetAfterStep, Nat.sub_eq_zero_iff_le]

/-- The three cases of R134. -/
theorem stopDue_iff (s : State) :
    stopDue s = true ↔
      (s.engine = .running ∧ s.pc ∈ s.breakpoints) ∨ (∃ n, s.budget = some n ∧ n ≤ 1) ∨ s.stopRequest = true := by
  rw [← budgetAfterStep_eq_zero_iff]
  simp [stopDue, or_assoc]

theorem stopCheck_engine (s : State) : (stopCheck s).engine = if stopDue s then .stopped else s.engine := rfl

/-- Settles O51: the engine state is read off whether a stop is due. -/
theorem stopCheckStopsInThreeCases : Obligations.StopCheckStopsInThreeCases := by
  unfold Obligations.StopCheckStopsInThreeCases
  intro s
  refine ⟨rfl, ?_⟩
  rw [← stopDue_iff, stopCheck_engine]
  cases stopDue s <;> simp

end Sys2Proof.Machine
end

section
/-! Well-formedness over the host's actions (20_memory.md R56; 41_execution_cycle.md R137, R138, R140, R141, R143,
R148; 70_reset_and_hazards.md R246). -/

namespace Sys2Proof.Machine

/-! The breakpoint set. -/

/-- The canonical form relates every two entries, not only neighbours. -/
theorem rising_iff_pairwise (l : List Word) : rising l = true ↔ l.Pairwise (· < ·) := by
  rw [← List.isChain_iff_pairwise]
  induction l using rising.induct with
  | case1 | case2 => simp [rising]
  | case3 a b rest ih => simp [rising, ih]

theorem mem_insertAddress {a x : Word} {l : List Word} : x ∈ insertAddress a l ↔ x = a ∨ x ∈ l := by
  fun_induction insertAddress a l with
  | case1 | case2 | case3 => simp
  | case4 b rest _ _ ih => rw [List.mem_cons, ih, List.mem_cons, or_left_comm]

theorem rising_insertAddress {l : List Word} (a : Word) (h : rising l = true) : rising (insertAddress a l) = true := by
  rw [rising_iff_pairwise] at h ⊢
  fun_induction insertAddress a l with
  | case1 => exact List.pairwise_singleton _ a
  | case2 b rest hlt =>
    have hrest : ∀ x ∈ rest, a < x := fun x hx => BitVec.lt_trans hlt (List.rel_of_pairwise_cons h hx)
    exact List.pairwise_cons.mpr ⟨List.forall_mem_cons.mpr ⟨hlt, hrest⟩, h⟩
  | case3 => exact h
  | case4 b rest hle hne ih =>
    obtain ⟨hb, hrest⟩ := List.pairwise_cons.mp h
    refine List.pairwise_cons.mpr ⟨fun x hx => ?_, ih hrest⟩
    obtain rfl | hx := mem_insertAddress.mp hx
    · exact BitVec.lt_of_le_ne (BitVec.not_lt.mp hle) (Ne.symm hne)
    · exact hb x hx

/-! Each action. -/

theorem State.wf_iff {s : State} : s.wf = true ↔
    s.memory.wf = true ∧ rising s.breakpoints = true ∧ s.controlWf = true ∧ s.displayWf = true := by
  simp [State.wf, and_assoc]

section
variable {s : State}

theorem wf_load {blocks : List Block} {t : State} (h : s.wf = true) (ht : s.load blocks = .ok t) : t.wf = true := by
  obtain ⟨hmemory, hrest⟩ := State.wf_iff.mp h
  obtain ⟨hfits, rfl⟩ := State.load_ok ht
  exact State.wf_iff.mpr ⟨writeBlocks_wf hmemory hfits, hrest⟩

/-- A reset stops the engine and leaves the display ready (R246). -/
theorem wf_applyReset (d : ResetDraws) (h : s.wf = true) : (s.applyReset d).wf = true := by
  obtain ⟨hmemory, hbreakpoints, -, -⟩ := State.wf_iff.mp h
  exact State.wf_iff.mpr ⟨hmemory, hbreakpoints, rfl, (displayWf_iff _).mpr fun _ => rfl⟩

theorem wf_run (budget : Option Nat) (h : s.wf = true) : (s.run budget).wf = true := by
  unfold State.run
  split
  · obtain ⟨hmemory, hbreakpoints, -, hdisplay⟩ := State.wf_iff.mp h
    exact State.wf_iff.mpr ⟨hmemory, hbreakpoints, rfl, hdisplay⟩
  all_goals exact h

/-- `step(n)` runs only with a budget that is not empty (R138). -/
theorem wf_singleStep (n : Nat) (h : s.wf = true) : (s.singleStep n).wf = true := by
  unfold State.singleStep
  split
  · split
    · exact h
    · next hn =>
      obtain ⟨hmemory, hbreakpoints, -, hdisplay⟩ := State.wf_iff.mp h
      exact State.wf_iff.mpr ⟨hmemory, hbreakpoints, decide_eq_true (Nat.pos_of_ne_zero hn), hdisplay⟩
  all_goals exact h

theorem wf_requestStop (h : s.wf = true) : s.requestStop.wf = true := by
  unfold State.requestStop
  split <;> exact h

theorem wf_setBreakpoint (a : Word) (h : s.wf = true) : (s.setBreakpoint a).wf = true := by
  obtain ⟨hmemory, hbreakpoints, hrest⟩ := State.wf_iff.mp h
  exact State.wf_iff.mpr ⟨hmemory, rising_insertAddress a hbreakpoints, hrest⟩

end

/-- A load succeeds, or leaves the state as it was (R254). -/
theorem act_load_cases (blocks : List Block) (s : State) :
    s.load blocks = .ok (s.act (.load blocks)) ∨ s.act (.load blocks) = s := by
  rw [State.act]
  cases s.load blocks with
  | ok t => exact .inl rfl
  | error e => exact .inr rfl

theorem act_wf (a : HostAction) {s : State} (h : s.wf = true) : (s.act a).wf = true := by
  cases a with
  | load blocks =>
    obtain ht | ht := act_load_cases blocks s
    · exact wf_load h ht
    · rwa [ht]
  | reset d => exact wf_applyReset d h
  | run budget => exact wf_run budget h
  | singleStep n => exact wf_singleStep n h
  | requestStop => exact wf_requestStop h
  | setBreakpoint a => exact wf_setBreakpoint a h
  | deliverChar | drainOutput => exact h

@[simp] theorem State.run_params (budget : Option Nat) (s : State) : (s.run budget).params = s.params := by
  unfold State.run
  split <;> rfl

@[simp] theorem State.singleStep_params (n : Nat) (s : State) : (s.singleStep n).params = s.params := by
  unfold State.singleStep
  split
  · split <;> rfl
  all_goals rfl

@[simp] theorem State.requestStop_params (s : State) : s.requestStop.params = s.params := by
  unfold State.requestStop
  split <;> rfl

theorem act_params (a : HostAction) (s : State) : (s.act a).params = s.params := by
  cases a with
  | load blocks =>
    obtain ht | ht := act_load_cases blocks s
    · rw [(State.load_ok ht).2]
    · rw [ht]
  | run budget => exact State.run_params budget s
  | singleStep n => exact State.singleStep_params n s
  | requestStop => exact State.requestStop_params s
  | reset | setBreakpoint | deliverChar | drainOutput => rfl

/-- Settles O56: the clauses an action touches it sets anew, and the others it leaves. -/
theorem hostActionsKeepWellFormedness : Obligations.HostActionsKeepWellFormedness := by
  unfold Obligations.HostActionsKeepWellFormedness
  exact fun a s h => ⟨act_wf a h, act_params a s⟩

end Sys2Proof.Machine
end

section
/-! The rows of the opcode table (30_encoding.md R81 to R83) and the operate instructions (42_operate.md R150 to
R154). -/

namespace Sys2Proof.Machine

/-! Which row a word has. -/

section
variable {r r' : TableRow} {m : FixedBits} {w : Word}

/-- A word has a row's fixed bits if it has the row's opcode and its fixed bits below the opcode. -/
theorem matches_of_opcode (hop : field w 12 4 = field r.pattern 12 4)
    (hlow : ∀ i : Fin 12, (r.mask m).getLsbD i = true → w.getLsbD i = r.pattern.getLsbD i) : r.matches m w = true := by
  refine (r.matches_iff m w).mpr fun i hi => ?_
  by_cases hi12 : i.val < 12
  · exact hlow ⟨i, hi12⟩ hi
  · obtain ⟨j, hj⟩ := Nat.exists_eq_add_of_le (Nat.le_of_not_lt hi12)
    have hbits : ∀ k : Fin 4, w.getLsbD (12 + k) = r.pattern.getLsbD (12 + k) := by
      simpa [field] using (field_eq_iff _ _ _ _).mp hop
    exact hj ▸ hbits ⟨j, by omega⟩

/-- The bits that count under lenient decode also count under strict decode. -/
theorem matches_lenient_of_matches_strict (hr : r ∈ instructionRows) (h : r.matches .strict w = true) :
    r.matches .lenient w = true := by
  have hmasks : ∀ r ∈ instructionRows, ∀ i : Fin 16,
      r.lenientMask.getLsbD i = true → r.strictMask.getLsbD i = true := by decide
  exact (r.matches_iff _ w).mpr fun i hi => (r.matches_iff _ w).mp h i (hmasks r hr i hi)

/-- The bits that count under lenient decode tell the rows apart. -/
theorem row_unique (hr : r ∈ instructionRows) (hr' : r' ∈ instructionRows) (h : r.matches .lenient w = true)
    (h' : r'.matches .lenient w = true) : r = r' := by
  have htable : ∀ r ∈ instructionRows, ∀ r' ∈ instructionRows, (∀ i : Fin 16, r.lenientMask.getLsbD i = true →
      r'.lenientMask.getLsbD i = true → r.pattern.getLsbD i = r'.pattern.getLsbD i) → r = r' := by decide
  exact htable r hr r' hr' fun i hi hi' =>
    ((r.matches_iff _ w).mp h i hi).symm.trans ((r'.matches_iff _ w).mp h' i hi')

/-- A word that has a row but for its other fixed bits is legal under strict decode only with those bits too. -/
theorem matches_strict_of_decode_ne_illegal (hr : r ∈ instructionRows) (h : r.matches .lenient w = true)
    (hne : decode .strict w ≠ .illegal w) : r.matches .strict w = true := by
  obtain ⟨r', hr', h'⟩ := List.any_eq_true.mp (legalWord_of_decode_ne_illegal .strict w hne)
  exact row_unique hr hr' h (matches_lenient_of_matches_strict hr' h') ▸ h'

/-- A row's pattern has no bits but its fixed ones. -/
theorem matches_strict_iff (hr : r ∈ instructionRows) :
    r.matches .strict w = true ↔ w &&& r.strictMask = r.pattern := by
  have hpattern : ∀ r ∈ instructionRows, r.pattern &&& r.strictMask = r.pattern := by decide
  rw [TableRow.matches, beq_iff_eq, TableRow.mask, hpattern r hr]

end

/-- An instruction that its word decodes to has the row whose opcode and format bits the word has. -/
theorem hasRow_of_matches {i : Instr} {r : TableRow} (hr : r ∈ instructionRows) (hlegal : ∀ w, i ≠ .illegal w)
    (hdecodes : ∀ m, decode m (encode i) = i) (h : r.matches .lenient (encode i) = true) :
    HasRow i r.pattern r.strictMask r.lenientMask where
  row := (matches_strict_iff hr).mp
    (matches_strict_of_decode_ne_illegal hr h fun hill => hlegal _ ((hdecodes .strict).symm.trans hill))
  decodes := hdecodes
  offRow w hw hoff := by
    by_contra hne
    exact hoff ((matches_strict_iff hr).mp (matches_strict_of_decode_ne_illegal hr (beq_iff_eq.mpr hw) hne))

section
variable {i : Instr} {r : TableRow} (hr : r ∈ instructionRows) (hlegal : ∀ w, i ≠ .illegal w)
  (hdecodes : ∀ m, decode m (encode i) = i) (hop : field (encode i) 12 4 = field r.pattern 12 4)
include hr hlegal hdecodes hop

/-- The only row of an opcode. -/
theorem hasRow_of_opcode (hmask : ∀ j : Fin 12, r.lenientMask.getLsbD j = false) :
    HasRow i r.pattern r.strictMask r.lenientMask :=
  hasRow_of_matches hr hlegal hdecodes
    (matches_of_opcode hop fun j hj => absurd hj (Bool.eq_false_iff.mp (hmask j)))

/-- One of the two rows of an opcode, told apart by bit `b`. -/
theorem hasRow_of_opcode_of_bit (b : Fin 12) (hmask : ∀ j : Fin 12, r.lenientMask.getLsbD j = true → j = b)
    (hbit : bitField (encode i) b = bitField r.pattern b) : HasRow i r.pattern r.strictMask r.lenientMask :=
  hasRow_of_matches hr hlegal hdecodes (matches_of_opcode hop fun j hj => hmask j hj ▸ hbit)

end

/-! The result. -/

/-- The shared ending of the operate instructions and the loads, in the spec's terms (R27). -/
theorem writesResult_writeResult (dr : Reg) (v : Word) (s : State) : WritesResult dr v s (writeResult dr v s) where
  dest := s.reg_setReg_self dr v
  others _ hr := s.reg_setReg_ne v hr
  n := rfl
  z := rfl
  p := congrArg (!v.getLsbD 15 && ·) decide_not.symm
  mode := rfl
  pl := rfl
  rest := rfl

/-! The operate instructions. -/

/-- Settles O18: ADD's two rows are told apart by bit 5. -/
theorem addWritesTheSum : Obligations.AddWritesTheSum := by
  unfold Obligations.AddWritesTheSum
  refine ⟨fun dr sr1 sr2 => ?_, fun dr sr1 imm5 => ?_, fun dr sr1 sr2 s => ⟨_, rfl, writesResult_writeResult dr _ s⟩,
    fun dr sr1 imm5 s => ⟨_, rfl, writesResult_writeResult dr _ s⟩⟩
  · obtain ⟨hop, -, -, -, -, hbit⟩ := formatRRR_fields 0b0001#4 dr sr1 sr2
    exact hasRow_of_opcode_of_bit (r := ⟨0x1000, 0xF038, 0xF020⟩) (by decide) nofun
      (fun m => Laws.RoundTrip.addReg dr sr1 sr2 m rfl) hop 5 (by decide) hbit
  · obtain ⟨hop, -, -, -, hbit⟩ := formatRRI_fields 0b0001#4 dr sr1 imm5
    exact hasRow_of_opcode_of_bit (r := ⟨0x1020, 0xF020, 0xF020⟩) (by decide) nofun
      (fun m => Laws.RoundTrip.addImm dr sr1 imm5 m rfl) hop 5 (by decide) hbit

/-- Settles O19: AND's two rows are told apart by bit 5. -/
theorem andWritesTheConjunction : Obligations.AndWritesTheConjunction := by
  unfold Obligations.AndWritesTheConjunction
  refine ⟨fun dr sr1 sr2 => ?_, fun dr sr1 imm5 => ?_, fun dr sr1 sr2 s => ⟨_, rfl, writesResult_writeResult dr _ s⟩,
    fun dr sr1 imm5 s => ⟨_, rfl, writesResult_writeResult dr _ s⟩⟩
  · obtain ⟨hop, -, -, -, -, hbit⟩ := formatRRR_fields 0b0101#4 dr sr1 sr2
    exact hasRow_of_opcode_of_bit (r := ⟨0x5000, 0xF038, 0xF020⟩) (by decide) nofun
      (fun m => Laws.RoundTrip.andReg dr sr1 sr2 m rfl) hop 5 (by decide) hbit
  · obtain ⟨hop, -, -, -, hbit⟩ := formatRRI_fields 0b0101#4 dr sr1 imm5
    exact hasRow_of_opcode_of_bit (r := ⟨0x5020, 0xF020, 0xF020⟩) (by decide) nofun
      (fun m => Laws.RoundTrip.andImm dr sr1 imm5 m rfl) hop 5 (by decide) hbit

/-- Settles O20: NOT's row is its opcode's only one. -/
theorem notWritesTheComplement : Obligations.NotWritesTheComplement := by
  unfold Obligations.NotWritesTheComplement
  refine ⟨fun dr sr => ?_, fun dr sr s => ⟨_, rfl, writesResult_writeResult dr _ s⟩⟩
  exact hasRow_of_opcode (r := ⟨0x903F, 0xF03F, 0xF000⟩) (by decide) nofun
    (fun m => Laws.RoundTrip.not dr sr m rfl) (formatNOT_fields dr sr).1 (by decide)

end Sys2Proof.Machine
end

section
/-! The data movement instructions (43_data_movement.md R160 to R169): their rows of the opcode table, and the shared
endings of loads and stores in the spec's terms. -/

namespace Sys2Proof.Machine

/-! The shared endings. -/

/-- The access violation, in the spec's terms (R57, R196). -/
theorem takesException_accessViolation {s : State} (hwf : s.memory.wf = true) :
    TakesException 0x02 s (exceptionEntry .accessViolation s) :=
  takesException_exceptionEntry .accessViolation hwf

section
variable {s : State} (hwf : s.memory.wf = true)
include hwf

/-- The ending of LD, LDI and LDR, from canonical memory. -/
theorem loadsFrom_loadFrom (dr : Reg) (ea : Word) : LoadsFrom dr ea s (loadFrom dr ea s) where
  allowed h := by
    refine ⟨_, _, _, memReadRoutesEveryAddress ea s, ?_, writesResult_writeResult dr _ _⟩
    simp [loadFrom_eq, h]
  violation h := ⟨_, by rw [loadFrom_eq, if_pos h], takesException_accessViolation hwf⟩

/-- The ending of ST, STI and STR, from canonical memory. -/
theorem storesTo_storeTo (sr : Reg) (ea : Word) : StoresTo sr ea s (storeTo sr ea s) where
  allowed h := by
    refine ⟨_, ?_, memWriteRoutesEveryAddress ea (s.reg sr) s hwf⟩
    simp [storeTo_eq, h]
  violation h := ⟨_, by rw [storeTo_eq, if_pos h], takesException_accessViolation hwf⟩

/-- LDI and STI (R169): the check of the pointer's address, then what the access does from the state the pointer read
left, whose memory is still canonical. -/
theorem throughPointer_checks_then_accesses {access : Word → State → Result} {Does : Word → State → Result → Prop}
    (haccess : ∀ ea {s1 : State}, s1.memory.wf = true → Does ea s1 (access ea s1)) (pa : Word) :
    (s.violates pa = true → ∃ t, throughPointer pa s access = .next t ∧ TakesException 0x02 s t) ∧
    (s.violates pa = false → ∃ ea s1, ReadsWord pa s ea s1 ∧ Does ea s1 (throughPointer pa s access)) := by
  rw [throughPointer_eq]
  refine ⟨fun h => ⟨_, if_pos h, takesException_accessViolation hwf⟩,
    fun h => ⟨_, _, memReadRoutesEveryAddress pa s, ?_⟩⟩
  rw [if_neg (Bool.eq_false_iff.mp h)]
  exact haccess _ (by rwa [memRead_memory])

end

/-! Loads. -/

/-- Settles O21: LD's row is its opcode's only one, and it ends with the load. -/
theorem ldLoadsPcRelative : Obligations.LdLoadsPcRelative := by
  unfold Obligations.LdLoadsPcRelative
  refine ⟨fun dr off => ?_, fun dr off s hwf => loadsFrom_loadFrom hwf dr _⟩
  exact hasRow_of_opcode (r := ⟨0x2000, 0xF000, 0xF000⟩) (by decide) nofun
    (fun m => Laws.RoundTrip.ld dr off m rfl) (formatRPC9_fields 0b0010#4 dr off).1 (by decide)

/-- Settles O22: LDI's row is its opcode's only one, and the load runs through the pointer. -/
theorem ldiLoadsThroughPointer : Obligations.LdiLoadsThroughPointer := by
  unfold Obligations.LdiLoadsThroughPointer
  refine ⟨fun dr off => ?_, fun dr off s hwf =>
    throughPointer_checks_then_accesses hwf (fun ea _ hwf1 => loadsFrom_loadFrom hwf1 dr ea) _⟩
  exact hasRow_of_opcode (r := ⟨0xA000, 0xF000, 0xF000⟩) (by decide) nofun
    (fun m => Laws.RoundTrip.ldi dr off m rfl) (formatRPC9_fields 0b1010#4 dr off).1 (by decide)

/-- Settles O23: LDR's row is its opcode's only one, and it ends with the load, from the base as it was. -/
theorem ldrLoadsBasePlusOffset : Obligations.LdrLoadsBasePlusOffset := by
  unfold Obligations.LdrLoadsBasePlusOffset
  refine ⟨fun dr baseR off => ?_, fun dr baseR off s hwf => loadsFrom_loadFrom hwf dr _⟩
  exact hasRow_of_opcode (r := ⟨0x6000, 0xF000, 0xF000⟩) (by decide) nofun
    (fun m => Laws.RoundTrip.ldr dr baseR off m rfl) (formatRRO6_fields 0b0110#4 dr baseR off).1 (by decide)

/-! LEA. -/

/-- A register write, in the spec's terms (R9, R20). -/
theorem writesRegister_setReg (dr : Reg) (v : Word) (s : State) : WritesRegister dr v s (s.setReg dr v) where
  dest := s.reg_setReg_self dr v
  others _ hr := s.reg_setReg_ne v hr
  rest := rfl

/-- LEA is a result under `LEA_SETS_CC` and a plain register write without it (R163). -/
theorem exec_lea (dr : Reg) (off : BitVec 9) (s : State) :
    exec (.lea dr off) s = .next (if s.params.leaSetsCC then writeResult dr (s.pc + off.signExtend 16) s
      else s.setReg dr (s.pc + off.signExtend 16)) := rfl

/-- Settles O24: LEA's row is its opcode's only one, and the parameter picks between the two writes. -/
theorem leaWritesTheAddress : Obligations.LeaWritesTheAddress := by
  unfold Obligations.LeaWritesTheAddress
  refine ⟨fun dr off => ?_, fun dr off s => ⟨_, exec_lea dr off s, fun h => ?_, fun h => ?_⟩⟩
  · exact hasRow_of_opcode (r := ⟨0xE000, 0xF000, 0xF000⟩) (by decide) nofun
      (fun m => Laws.RoundTrip.lea dr off m rfl) (formatRPC9_fields 0b1110#4 dr off).1 (by decide)
  · rw [if_neg (Bool.eq_false_iff.mp h)]
    exact writesRegister_setReg dr _ s
  · rw [if_pos h]
    exact writesResult_writeResult dr _ s

/-! Stores. -/

/-- Settles O25: ST's row is its opcode's only one, and it ends with the store. -/
theorem stStoresPcRelative : Obligations.StStoresPcRelative := by
  unfold Obligations.StStoresPcRelative
  refine ⟨fun sr off => ?_, fun sr off s hwf => storesTo_storeTo hwf sr _⟩
  exact hasRow_of_opcode (r := ⟨0x3000, 0xF000, 0xF000⟩) (by decide) nofun
    (fun m => Laws.RoundTrip.st sr off m rfl) (formatRPC9_fields 0b0011#4 sr off).1 (by decide)

/-- Settles O26: STI's row is its opcode's only one, and the store runs through the pointer. -/
theorem stiStoresThroughPointer : Obligations.StiStoresThroughPointer := by
  unfold Obligations.StiStoresThroughPointer
  refine ⟨fun sr off => ?_, fun sr off s hwf =>
    throughPointer_checks_then_accesses hwf (fun ea _ hwf1 => storesTo_storeTo hwf1 sr ea) _⟩
  exact hasRow_of_opcode (r := ⟨0xB000, 0xF000, 0xF000⟩) (by decide) nofun
    (fun m => Laws.RoundTrip.sti sr off m rfl) (formatRPC9_fields 0b1011#4 sr off).1 (by decide)

/-- Settles O27: STR's row is its opcode's only one, and it ends with the store. -/
theorem strStoresBasePlusOffset : Obligations.StrStoresBasePlusOffset := by
  unfold Obligations.StrStoresBasePlusOffset
  refine ⟨fun sr baseR off => ?_, fun sr baseR off s hwf => storesTo_storeTo hwf sr _⟩
  exact hasRow_of_opcode (r := ⟨0x7000, 0xF000, 0xF000⟩) (by decide) nofun
    (fun m => Laws.RoundTrip.str sr baseR off m rfl) (formatRRO6_fields 0b0111#4 sr baseR off).1 (by decide)

end Sys2Proof.Machine
end

section
/-! The control transfer instructions (44_control.md R177 to R182): their rows of the opcode table, BR's condition and
the call in the spec's terms. -/

namespace Sys2Proof.Machine

/-! Calls. -/

/-- JSR and JSRR (R181, R182): from the state at the target, the call is a write of the link register. -/
theorem writesRegister_callTo (target : Word) (s : State) :
    WritesRegister 7 s.pc { s with pc := target } (callTo target s) :=
  writesRegister_setReg regLink s.pc { s with pc := target }

/-- Settles O32: the two rows of the opcode are told apart by bit 11, and both instructions are calls, JSRR's with the
base register of the state before the link. -/
theorem jsrAndJsrrLinkAndJump : Obligations.JsrAndJsrrLinkAndJump := by
  unfold Obligations.JsrAndJsrrLinkAndJump
  refine ⟨fun off => ?_, fun baseR => ?_, fun off s => ⟨_, rfl, writesRegister_callTo (s.pcRelative off) s⟩,
    fun baseR s => ⟨_, rfl, writesRegister_callTo (s.reg baseR) s⟩⟩
  · obtain ⟨hop, -, hbit⟩ := formatJSR_fields off
    exact hasRow_of_opcode_of_bit (r := ⟨0x4800, 0xF800, 0xF800⟩) (by decide) nofun
      (fun m => Laws.RoundTrip.jsr off m rfl) hop 11 (by decide) hbit
  · obtain ⟨hop, -, -, -, -, hbit⟩ := formatBase_fields 0b0100#4 baseR
    exact hasRow_of_opcode_of_bit (r := ⟨0x4000, 0xFE3F, 0xF800⟩) (by decide) nofun
      (fun m => Laws.RoundTrip.jsrr baseR m rfl) hop 11 (by decide) hbit

/-! Branches. -/

/-- When a branch is taken (R177). -/
theorem Psr.branchTaken_iff (q : Psr) (n z p : Bool) :
    q.branchTaken n z p = true ↔
      (n = true ∧ q.n = true) ∨ (z = true ∧ q.z = true) ∨ (p = true ∧ q.p = true) := by
  simp [Psr.branchTaken, or_assoc]

/-- Settles O29: BR's row is its opcode's only one, and the condition picks between the two states. -/
theorem brBranchesOnTheFlags : Obligations.BrBranchesOnTheFlags := by
  unfold Obligations.BrBranchesOnTheFlags
  refine ⟨fun n z p off => ?_, fun n z p off s => ?_⟩
  · exact hasRow_of_opcode (r := ⟨0x0000, 0xF000, 0xF000⟩) (by decide) nofun
      (fun m => Laws.RoundTrip.br n z p off m rfl) (formatBR_fields n z p off).1 (by decide)
  · rw [exec_br, ← s.psr.branchTaken_iff]
    exact ⟨fun h => by rw [if_pos h], fun h => by rw [if_neg h]⟩

/-! Jumps. -/

/-- Settles O31: JMP's row is its opcode's only one, and RET's word decodes to its core instruction, JMP R7. -/
theorem jmpAndRetJumpThroughARegister : Obligations.JmpAndRetJumpThroughARegister := by
  unfold Obligations.JmpAndRetJumpThroughARegister
  have hword : encode .ret = 0xC1C0 := by decide
  refine ⟨fun baseR => ?_, hword, fun m => hword ▸ Laws.RoundTrip.ret m rfl, fun _ _ => rfl, fun _ => rfl⟩
  exact hasRow_of_opcode (r := ⟨0xC000, 0xFE3F, 0xF000⟩) (by decide) nofun
    (fun m => Laws.RoundTrip.jmp baseR m rfl) (formatBase_fields 0b1100#4 baseR).1 (by decide)

end Sys2Proof.Machine
end

section
/-! The system instructions (45_system.md R187 to R192): their rows of the opcode table, and the return in the terms of
the two words it reads. -/

namespace Sys2Proof.Machine

/-! TRAP. -/

/-- Settles O33: TRAP's row is its opcode's only one, and it is TRAP's entry. -/
theorem trapEntersThroughItsVector : Obligations.TrapEntersThroughItsVector := by
  unfold Obligations.TrapEntersThroughItsVector
  refine ⟨fun v => ?_, fun v s hwf => exec_enters_of_core_eq_trap v rfl hwf⟩
  exact hasRow_of_opcode (r := ⟨0xF000, 0xFF00, 0xF000⟩) (by decide) nofun
    (fun m => Laws.RoundTrip.trap v m rfl) (formatTRAP_fields v).1 (by decide)

/-! RTI. -/

section
variable {s : State}

theorem exec_rti_of_supervisor (h : s.psr.mode = .supervisor) : exec .rti s = .next (returnFromEntry s) := by
  rw [exec, execRti, h]

theorem exec_rti_of_user (h : s.psr.mode = .user) :
    exec .rti s = .next (exceptionEntry .privilegeViolation s) := by
  rw [exec, execRti, h, raise]

end

/-- A read looks at neither the registers nor PC, and keeps both (R52). -/
theorem memRead_withRegsPc (a : Word) (s : State) (regs : Vector Word 8) (pc : Word) :
    memRead a { s with regs := regs, pc := pc } =
      ((memRead a s).1, { (memRead a s).2 with regs := regs, pc := pc }) := by
  unfold memRead
  split_ifs <;> try rfl
  unfold dsrRead
  cases s.params.displayReady <;> rfl

/-- The second pop of a return reads the word above the first one's, from the state the first read left (R189). -/
theorem pop_pop_eq (s : State) (pc : Word) :
    pop { (pop s).2 with pc := pc } =
      ((memRead (s.reg regSP + 1) (memRead (s.reg regSP) s).2).1,
        { (memRead (s.reg regSP + 1) (memRead (s.reg regSP) s).2).2 with
          regs := (pop { (pop s).2 with pc := pc }).2.regs
          pc := pc }) := by
  have hsp : ({ (pop s).2 with pc := pc } : State).reg regSP = s.reg regSP + 1 := (pop_reg s regSP).trans (if_pos rfl)
  have hfirst : ({ (pop s).2 with pc := pc } : State) =
      { (memRead (s.reg regSP) s).2 with regs := (pop s).2.regs, pc := pc } := by rw [pop_eq]; rfl
  rw [pop_eq { (pop s).2 with pc := pc }, hsp, hfirst, memRead_withRegsPc]
  rfl

/-- Going back to a mode changes only R6 and SavedSSP (R22). -/
theorem switchToRestoredMode_eq (s : State) :
    switchToRestoredMode s =
      { s with regs := (switchToRestoredMode s).regs, savedSSP := (switchToRestoredMode s).savedSSP } := by
  unfold switchToRestoredMode
  cases s.psr.mode <;> rfl

/-- A return gets PC from the word at R6 (R189). -/
theorem returnFromEntry_pc (s : State) : (returnFromEntry s).pc = (memRead (s.reg regSP) s).1 := by
  rw [returnFromEntry_eq, switchToRestoredMode_pc, pop_pc, pop_eq s]

/-- A return gets PSR from the word above it (R189). -/
theorem returnFromEntry_psr (s : State) :
    (returnFromEntry s).psr = Psr.unpack (memRead (s.reg regSP + 1) (memRead (s.reg regSP) s).2).1 := by
  rw [returnFromEntry_eq, switchToRestoredMode_psr, pop_pop_eq]

/-- The two pops of a return write no register but R6 (R189). -/
theorem pop_pop_reg (s : State) (r : Reg) :
    (pop { (pop s).2 with pc := (pop s).1 }).2.reg r = if r = regSP then s.reg regSP + 2 else s.reg r := by
  by_cases hr : r = regSP
  · rw [if_pos hr, hr, pop_pop_reg_sp]
  · rw [pop_reg, if_neg hr, State.reg_withPc, pop_reg, if_neg hr, if_neg hr]

/-- A return leaves R6 above the two words or, to user mode, loads it from SavedUSP (R22, R189). -/
theorem returnFromEntry_reg (s : State) (r : Reg) :
    (returnFromEntry s).reg r =
      if r = regSP then if (returnFromEntry s).psr.mode = .user then s.savedUSP else s.reg regSP + 2
      else s.reg r := by
  rw [returnFromEntry_eq, switchToRestoredMode_reg, switchToRestoredMode_psr, State.reg_withPsr, pop_pop_reg]
  by_cases hr : r = regSP
  · simp only [hr, and_true, if_true, pop_savedUSP]
  · simp only [hr, and_false, if_false]

/-- All else is as the two reads left it (R189). -/
theorem returnFromEntry_rest (s : State) :
    returnFromEntry s =
      { (memRead (s.reg regSP + 1) (memRead (s.reg regSP) s).2).2 with
        regs := (returnFromEntry s).regs
        pc := (returnFromEntry s).pc
        psr := (returnFromEntry s).psr
        savedSSP := (returnFromEntry s).savedSSP } := by
  rw [returnFromEntry_eq, pop_pop_eq, switchToRestoredMode_eq]

/-- Settles O35: RTI's row is its opcode's only one, and it is the return. -/
theorem rtiPopsPcAndPsr : Obligations.RtiPopsPcAndPsr := by
  unfold Obligations.RtiPopsPcAndPsr
  refine ⟨?_, fun s hmode => ⟨_, _, _, _, returnFromEntry s, memReadRoutesEveryAddress (s.reg 6) s,
    memReadRoutesEveryAddress (s.reg 6 + 1) _, exec_rti_of_supervisor hmode, returnFromEntry_pc s, ?_,
    fun r hr => (returnFromEntry_reg s r).trans (if_neg hr), fun huser => ?_, fun hsupervisor => ?_,
    returnFromEntry_rest s⟩⟩
  · exact hasRow_of_opcode (r := ⟨0x8000, 0xFFFF, 0xF000⟩) (by decide) nofun
      (fun m => Laws.RoundTrip.rti m rfl) (by decide) (by decide)
  · exact (congrArg Psr.pack (returnFromEntry_psr s)).trans (Psr.pack_unpack _)
  · exact ⟨(returnFromEntry_savedSSP s).trans (if_pos huser),
      (returnFromEntry_reg s 6).trans ((if_pos rfl).trans (if_pos huser))⟩
  · have hne : (returnFromEntry s).psr.mode ≠ .user := by simp [hsupervisor]
    exact ⟨(returnFromEntry_savedSSP s).trans (if_neg hne),
      (returnFromEntry_reg s 6).trans ((if_pos rfl).trans (if_neg hne))⟩

/-- Settles O36: in user mode RTI is the exception's entry, from the state before any pop. -/
theorem rtiInUserModeIsAPrivilegeViolation : Obligations.RtiInUserModeIsAPrivilegeViolation := by
  unfold Obligations.RtiInUserModeIsAPrivilegeViolation
  exact fun s huser hwf => ⟨_, exec_rti_of_user huser, takesException_exceptionEntry .privilegeViolation hwf⟩

/-! The illegal instruction. -/

/-- Settles O37: the illegal instruction is the exception's entry, whatever its word. -/
theorem illegalWordTakesIllegalOpcode : Obligations.IllegalWordTakesIllegalOpcode := by
  unfold Obligations.IllegalWordTakesIllegalOpcode
  exact fun w s hwf => ⟨_, rfl, takesException_exceptionEntry .illegalOpcode hwf⟩

end Sys2Proof.Machine
end

section
/-! What a step in user mode leaves alone (20_memory.md R57; 60_exceptions.md R215, R218). -/

namespace Sys2Proof.Machine

namespace SameProtected
variable {s t u : State}

theorem trans (h : SameProtected s t) (hparams : t.params = s.params) (h' : SameProtected t u) :
    SameProtected s u where
  mcr := h'.mcr.trans h.mcr
  kbdReady := h'.kbdReady.trans h.kbdReady
  kbdIE := h'.kbdIE.trans h.kbdIE
  kbdData := h'.kbdData.trans h.kbdData
  dsrReady := h'.dsrReady.trans h.dsrReady
  dsrDraws := h'.dsrDraws.trans h.dsrDraws
  ddr := h'.ddr.trans h.ddr
  output := h'.output.trans h.output
  savedSSP := h'.savedSSP.trans h.savedSSP
  savedUSP := h'.savedUSP.trans h.savedUSP
  pl := h'.pl.trans h.pl
  memory a ha := (h'.memory a (hparams ▸ ha)).trans (h.memory a ha)

/-- The registers, PC, PSR but for PL, and the engine's own fields are not protected. -/
theorem of_unprotected (hpl : t.psr.pl = s.psr.pl)
    (ht : t = { s with
      regs := t.regs, pc := t.pc, psr := t.psr, engine := t.engine, budget := t.budget
      stopRequest := t.stopRequest }) : SameProtected s t := by
  rw [ht]
  exact ⟨rfl, rfl, rfl, rfl, rfl, rfl, rfl, rfl, rfl, rfl, hpl, fun _ _ => rfl⟩

/-- A write of plain memory in `USER_WINDOW`. -/
theorem of_write (hwf : s.memory.wf = true) {a : Word} (ha : s.params.inUserWindow a = true) (v : Word) :
    SameProtected s { s with memory := s.memory.write a v } := by
  refine ⟨rfl, rfl, rfl, rfl, rfl, rfl, rfl, rfl, rfl, rfl, rfl, fun x hx => ?_⟩
  have hne : x ≠ a := by
    rintro rfl
    simp [ha] at hx
  exact (Memory.read_write hwf a v x).trans (if_neg hne)

end SameProtected

/-- If the answer is a state in user mode, it has what is protected as `s` has it. -/
def KeepsProtected (s : State) (r : Result) : Prop :=
  ∀ t, r = .next t → t.psr.mode = .user → SameProtected s t

namespace KeepsProtected
variable {s t : State}

theorem of_sameProtected (h : SameProtected s t) : KeepsProtected s (.next t) := by
  intro u hu _
  obtain rfl := Host.Outcome.next.inj hu
  exact h

theorem of_unprotected (hpl : t.psr.pl = s.psr.pl) (ht : t = { s with regs := t.regs, pc := t.pc, psr := t.psr }) :
    KeepsProtected s (.next t) :=
  .of_sameProtected (.of_unprotected hpl (by rw [ht]))

/-- An entry leaves user mode. -/
theorem of_enter (tableEntry : Word) (pl : BitVec 3) (u : State) :
    KeepsProtected s (.next (enter tableEntry pl u)) := by
  intro t ht huser
  obtain rfl := Host.Outcome.next.inj ht
  simp at huser

theorem branch (n z p : Bool) (off : BitVec 9) (s : State) : KeepsProtected s (.next (branch n z p off s)) := by
  unfold Machine.branch
  split <;> exact .of_unprotected rfl rfl

theorem execLea (dr : Reg) (off : BitVec 9) (s : State) : KeepsProtected s (execLea dr off s) := by
  unfold Machine.execLea
  split <;> exact .of_unprotected rfl rfl

end KeepsProtected

/-- A state in user mode, with canonical memory and no device register in `USER_WINDOW`. -/
structure UserShielded (s : State) : Prop where
  wf : s.memory.wf = true
  shielded : s.params.shieldsDevices = true
  user : s.psr.mode = .user

namespace UserShielded
variable {s : State}

/-- An address that passes the check is a plain one in the window. -/
theorem plain_of_not_violates (h : UserShielded s) {a : Word} (ha : s.violates a = false) :
    s.params.inUserWindow a = true ∧ isDevice a = false := by
  have hpair : UserPair s s := ⟨⟨rfl, rfl, rfl, rfl, fun _ _ => rfl⟩, h.wf, h.wf, h.shielded, h.user⟩
  have hwindow : s.params.inUserWindow a = true := by simpa [State.violates, h.user] using ha
  exact ⟨hwindow, hpair.isDevice_of_inUserWindow hwindow⟩

theorem checked (h : UserShielded s) (a : Word) {rest : State → Result}
    (hrest : s.params.inUserWindow a = true → isDevice a = false → KeepsProtected s (rest s)) :
    KeepsProtected s (checked a s rest) := by
  unfold Machine.checked
  split
  · exact .of_enter _ _ _
  · next hviolates =>
    obtain ⟨hwindow, hplain⟩ := h.plain_of_not_violates (Bool.eq_false_iff.mpr hviolates)
    exact hrest hwindow hplain

theorem loadFrom (h : UserShielded s) (dr : Reg) (ea : Word) : KeepsProtected s (loadFrom dr ea s) := by
  refine h.checked ea fun _ hplain => ?_
  rw [memRead_plain hplain]
  exact .of_unprotected rfl rfl

theorem storeTo (h : UserShielded s) (sr : Reg) (ea : Word) : KeepsProtected s (storeTo sr ea s) := by
  refine h.checked ea fun hwindow hplain => ?_
  rw [memWrite_plain hplain]
  exact .of_sameProtected (.of_write h.wf hwindow _)

/-- The pointer read changes nothing, since it is of plain memory. -/
theorem throughPointer (h : UserShielded s) (pa : Word) {access : Word → State → Result}
    (haccess : ∀ ea, KeepsProtected s (access ea s)) : KeepsProtected s (throughPointer pa s access) := by
  refine h.checked pa fun _ hplain => ?_
  rw [memRead_plain hplain]
  exact haccess _

theorem execRti (h : UserShielded s) : KeepsProtected s (execRti s) := by
  rw [Machine.execRti, h.user]
  exact .of_enter _ _ _

/-- Every instruction that stays in user mode keeps what is protected. -/
theorem exec (h : UserShielded s) (i : Instr) : KeepsProtected s (exec i s) := by
  cases i with
  | addReg | addImm | andReg | andImm | not | jmp | ret | jsr | jsrr => exact .of_unprotected rfl rfl
  | br | brn | brz | brp | brnz | brnp | brzp | brnzp => exact .branch _ _ _ _ s
  | ld dr | ldr dr => exact h.loadFrom dr _
  | ldi dr => exact h.throughPointer _ (h.loadFrom dr)
  | lea dr off => exact .execLea dr off s
  | st sr | str sr => exact h.storeTo sr _
  | sti sr => exact h.throughPointer _ (h.storeTo sr)
  | rti => exact h.execRti
  | trap | getc | out | puts | inp | putsp | halt | illegal => exact .of_enter _ _ _

/-- A fetch that is performed changes only PC, since it is of plain memory (R128). -/
theorem fetch_eq (h : UserShielded s) (hallowed : s.violates s.pc = false) :
    (fetch s).2 = { s with pc := s.pc + 1 } := by
  obtain ⟨-, hplain⟩ := h.plain_of_not_violates hallowed
  rw [fetch, memRead_plain hplain]

theorem fetchAndExecute (h : UserShielded s) : KeepsProtected s (fetchAndExecute s) := by
  cases hallowed : s.violates s.pc
  · rw [fetchAndExecute_of_not_violates hallowed, h.fetch_eq hallowed]
    have hfetched : UserShielded { s with pc := s.pc + 1 } := ⟨h.wf, h.shielded, h.user⟩
    have hpc : SameProtected s { s with pc := s.pc + 1 } := .of_unprotected rfl rfl
    exact fun t ht huser => hpc.trans rfl (hfetched.exec _ t ht huser)
  · rw [fetchAndExecute_of_violates hallowed, fetchAccessViolation, exceptionEntry]
    exact .of_enter _ _ _

end UserShielded

/-- A boundary that ends in user mode took no interrupt, and keeps what is protected (R127, R213). -/
theorem boundary_sameProtected {s : State} (huser : (boundary s).psr.mode = .user) :
    s.psr.mode = .user ∧ SameProtected s (boundary s) := by
  obtain ⟨-, hb⟩ | ⟨-, -, hb⟩ | ⟨-, -, hb⟩ := boundary_cases s <;> rw [hb] at huser ⊢
  · exact ⟨huser, .of_unprotected rfl rfl⟩
  · simp [interruptEntry] at huser
  · exact ⟨huser, .of_unprotected rfl rfl⟩

/-- Settles O45: in user mode only plain memory in the window is accessed, and every entry leaves user mode. -/
theorem userStepsTouchNothingProtected : Obligations.UserStepsTouchNothingProtected := by
  unfold Obligations.UserStepsTouchNothingProtected
  intro s t hwf hshielded huser hstep hend
  obtain ⟨-, rfl⟩ | ⟨hactive, u, hu, rfl⟩ := step_cases hstep
  · exact .of_unprotected rfl rfl
  · obtain ⟨huseru, hboundary⟩ := boundary_sameProtected hend
    exact (UserShielded.fetchAndExecute ⟨hwf, hshielded, huser⟩ u hu huseru).trans
      (fetchAndExecute_params hactive hu) hboundary

end Sys2Proof.Machine
end

section
/-! The exceptions' and the interrupt's entry, and the return to what a TRAP left (60_exceptions.md R203, R205, R213,
R244; 45_system.md R189). -/

namespace Sys2Proof.Machine

/-- Settles O38: both are the shared entry, through a table that is plain memory. -/
theorem exceptionAndInterruptEntry : Obligations.ExceptionAndInterruptEntry := by
  unfold Obligations.ExceptionAndInterruptEntry
  exact fun s hwf => ⟨fun e => takesException_exceptionEntry e hwf,
    entersThrough_enter (isDevice_interruptTableEntry s.params.kbdIntVector) s.params.kbdIntPriority hwf⟩

/-- An entry leaves its frame where it pushed it, if the two words are plain memory (R203). -/
theorem EntersThrough.frame {tableEntry : Word} {pl : BitVec 3} {s t : State} (h : EntersThrough tableEntry pl s t)
    (hplain1 : isDevice (s.entryStack - 1) = false) (hplain2 : isDevice (s.entryStack - 2) = false) :
    t.memory.read (s.entryStack - 1) = s.psr.pack ∧ t.memory.read (s.entryStack - 2) = s.pc := by
  obtain ⟨s1, s2, hpsr, hpc, -, ht⟩ := h.pushes
  obtain ⟨hread1, -, -⟩ := hpsr.plain ((isDevice_eq_false_iff _).mp hplain1)
  obtain ⟨hread2, hothers, -⟩ := hpc.plain ((isDevice_eq_false_iff _).mp hplain2)
  have hne : s.entryStack - 1 ≠ s.entryStack - 2 := by bv_omega
  rw [ht]
  exact ⟨(hothers _ hne).trans hread1, hread2⟩

/-- A return from a frame in plain memory: PC and PSR from its two words, and no read has a side effect (R189). -/
theorem returnFromEntry_plain {s : State} (hplain1 : isDevice (s.reg regSP) = false)
    (hplain2 : isDevice (s.reg regSP + 1) = false) :
    (returnFromEntry s).pc = s.memory.read (s.reg regSP) ∧
      (returnFromEntry s).psr = Psr.unpack (s.memory.read (s.reg regSP + 1)) ∧
      returnFromEntry s =
        { s with
          regs := (returnFromEntry s).regs
          pc := (returnFromEntry s).pc
          psr := (returnFromEntry s).psr
          savedSSP := (returnFromEntry s).savedSSP } := by
  have hpc := returnFromEntry_pc s
  have hpsr := returnFromEntry_psr s
  have hrest := returnFromEntry_rest s
  rw [memRead_plain hplain1] at hpc hpsr hrest
  rw [memRead_plain hplain2] at hpsr hrest
  exact ⟨hpc, hpsr, hrest⟩

/-- Settles O39: the service leaves the frame at R6, the return reads PC and PSR back from it, and the restored mode
tells which of the two stack pointers the entry had put away. -/
theorem rtiUndoesTrapEntry : Obligations.RtiUndoesTrapEntry := by
  unfold Obligations.RtiUndoesTrapEntry
  intro v s t h hwf hplain1 hplain2 hexec hsup hsp husp hssp hframe1 hframe2
  obtain rfl := Host.Outcome.next.inj hexec
  have hentry := entersThrough_trapEntry v hwf
  obtain ⟨hpushedPsr, hpushedPc⟩ := hentry.frame hplain1 hplain2
  have hr6 : h.reg regSP = s.entryStack - 2 := hsp.trans hentry.sp
  have hnext : h.reg regSP + 1 = s.entryStack - 1 := by rw [hr6]; bv_omega
  have htop : h.reg regSP + 2 = s.entryStack := by rw [hr6]; bv_omega
  obtain ⟨hpc, hpsr, hrest⟩ := returnFromEntry_plain (s := h) (hr6 ▸ hplain2) (hnext ▸ hplain1)
  rw [hr6, hframe2, hpushedPc] at hpc
  rw [hnext, hframe1, hpushedPsr, Psr.unpack_pack] at hpsr
  refine ⟨_, exec_rti_of_supervisor hsup, hpc, hpsr, ?_, ?_, fun r hr => (returnFromEntry_reg h r).trans (if_neg hr),
    returnFromEntry_memory h, hrest⟩
  · change (returnFromEntry h).reg regSP = s.reg regSP
    rw [returnFromEntry_reg, if_pos rfl, hpsr, htop, husp, hentry.savedUSP, State.entryStack]
    cases s.psr.mode <;> rfl
  · rw [returnFromEntry_savedSSP, hpsr, htop, hssp, trapEntry, enter_savedSSP, State.entryStack]
    cases s.psr.mode <;> rfl

end Sys2Proof.Machine
end

section
/-! The mode over all instructions and steps (60_exceptions.md R203, R213, R215). -/

namespace Sys2Proof.Machine

/-- PC is the word at an address of the vector tables (R48, R202). -/
def AtVector (t : State) : Prop := ∃ e : Word, e.toNat < 0x0200 ∧ t.pc = t.memory.read e

/-- From `s` in user mode to `t`: PC from a vector table, R6 saved, and a frame on the supervisor stack (R215). -/
structure LeavesUserMode (s t : State) : Prop where
  atVector : AtVector t
  savedUSP : t.savedUSP = s.reg regSP
  sp : t.reg regSP = s.savedSSP - 2

theorem trapTableEntry_lt : ∀ v : BitVec 8, (trapTableEntry v).toNat < 0x0200 := by decide

theorem interruptTableEntry_lt : ∀ v : BitVec 8, (interruptTableEntry v).toNat < 0x0200 := by decide

theorem atVector_enter {tableEntry : Word} (hlt : tableEntry.toNat < 0x0200) (hplain : isDevice tableEntry = false)
    (pl : BitVec 3) (s : State) : AtVector (enter tableEntry pl s) :=
  ⟨tableEntry, hlt, by rw [enter_plain hplain]⟩

theorem atVector_interruptEntry (s : State) : AtVector (interruptEntry s) :=
  atVector_enter (interruptTableEntry_lt _) (isDevice_interruptTableEntry _) _ s

theorem State.entryStack_of_user {s : State} (h : s.psr.mode = .user) : s.entryStack = s.savedSSP := by
  rw [State.entryStack, h]

theorem State.entryStack_of_supervisor {s : State} (h : s.psr.mode = .supervisor) : s.entryStack = s.reg regSP := by
  rw [State.entryStack, h]

section
variable {i : Instr} {s t u : State}

theorem leavesUserMode_enter {tableEntry : Word} (hlt : tableEntry.toNat < 0x0200)
    (hplain : isDevice tableEntry = false) (pl : BitVec 3) (huser : s.psr.mode = .user) :
    LeavesUserMode s (enter tableEntry pl s) where
  atVector := atVector_enter hlt hplain pl s
  savedUSP := (enter_savedUSP tableEntry pl s).trans (if_pos huser)
  sp := by rw [enter_reg, if_pos rfl, State.entryStack_of_user huser]

theorem leavesUserMode_trapEntry (v : BitVec 8) (huser : s.psr.mode = .user) : LeavesUserMode s (trapEntry v s) :=
  leavesUserMode_enter (trapTableEntry_lt v) (isDevice_trapTableEntry v) _ huser

theorem leavesUserMode_exceptionEntry (e : Exception) (huser : s.psr.mode = .user) :
    LeavesUserMode s (exceptionEntry e s) :=
  leavesUserMode_enter (interruptTableEntry_lt e.vector) (isDevice_interruptTableEntry e.vector) _ huser

theorem leavesUserMode_interruptEntry (huser : s.psr.mode = .user) : LeavesUserMode s (interruptEntry s) :=
  leavesUserMode_enter (interruptTableEntry_lt _) (isDevice_interruptTableEntry _) _ huser

/-- Only RTI enters user mode (R215). -/
theorem exec_entersUserMode (h : exec i s = .next t) (hs : s.psr.mode = .supervisor) (ht : t.psr.mode = .user) :
    i = .rti := by
  cases exec_outcome h with
  | completes hc => simp [hc.mode, hs] at ht
  | traps v hv => simp [hv, trapEntry] at ht
  | raises e u hu he => simp [he, exceptionEntry] at ht
  | returns hi => exact hi

/-- An instruction leaves user mode only by an entry (R215). -/
theorem exec_leavesUserMode (h : exec i s = .next t) (hs : s.psr.mode = .user) (ht : t.psr.mode = .supervisor) :
    LeavesUserMode s t := by
  cases exec_outcome h with
  | completes hc => simp [hc.mode, hs] at ht
  | traps v hv => exact hv ▸ leavesUserMode_trapEntry v hs
  | raises e u hu he =>
    have hentry := leavesUserMode_exceptionEntry e (hu.sameContext.mode.trans hs)
    exact he ▸ ⟨hentry.atVector, hu.reg regSP ▸ hentry.savedUSP, hu.sameContext.savedSSP ▸ hentry.sp⟩
  | returns _ hmode => simp [hs] at hmode

/-- Before the boundary only an executed RTI enters user mode. -/
theorem fetchAndExecute_entersUserMode (hactive : s.active = true) (h : fetchAndExecute s = .next u)
    (hs : s.psr.mode = .supervisor) (hu : u.psr.mode = .user) : StepExecutes s .rti := by
  obtain ⟨-, rfl⟩ | ⟨i, hi, hexec⟩ := fetchAndExecute_cases hactive h
  · simp [fetchAccessViolation, exceptionEntry] at hu
  · exact exec_entersUserMode hexec (by simpa using hs) hu ▸ hi

/-- Before the boundary user mode is left only by an entry: the instruction's, or that of the fetch's access
violation. -/
theorem fetchAndExecute_leavesUserMode (hactive : s.active = true) (h : fetchAndExecute s = .next u)
    (hs : s.psr.mode = .user) (hu : u.psr.mode = .supervisor) : LeavesUserMode s u := by
  obtain ⟨-, rfl⟩ | ⟨i, -, hexec⟩ := fetchAndExecute_cases hactive h
  · obtain ⟨hvector, husp, hsp⟩ :=
      leavesUserMode_exceptionEntry (s := { s with pc := s.pc + 1 }) .accessViolation hs
    exact ⟨hvector, husp, hsp⟩
  · obtain ⟨hvector, husp, hsp⟩ := exec_leavesUserMode hexec (by simpa using hs) hu
    exact ⟨hvector, by simpa using husp, by simpa using hsp⟩

/-- An interrupt in supervisor mode pushes one more frame on the stack in use, and saves nothing (R22, R213). -/
theorem interruptEntry_of_supervisor (hs : s.psr.mode = .supervisor) :
    (interruptEntry s).savedUSP = s.savedUSP ∧ (interruptEntry s).reg regSP = s.reg regSP - 2 := by
  rw [interruptEntry, enter_savedUSP, enter_reg, State.entryStack_of_supervisor hs, hs]
  exact ⟨rfl, rfl⟩

/-- The ways a boundary can end: with the mode, PC, memory and the stack as they were, or in the interrupt's entry
(R127, R213). -/
theorem boundary_mode_cases (s : State) :
    ((boundary s).psr.mode = s.psr.mode ∧ (boundary s).pc = s.pc ∧ (boundary s).memory = s.memory ∧
      (boundary s).savedUSP = s.savedUSP ∧ (boundary s).reg regSP = s.reg regSP) ∨
    (interruptPending s = true ∧ boundary s = stopCheck (interruptEntry s)) := by
  obtain ⟨-, hb⟩ | ⟨-, hpending, hb⟩ | ⟨-, -, hb⟩ := boundary_cases s
  · exact .inl (hb ▸ ⟨rfl, rfl, rfl, rfl, rfl⟩)
  · exact .inr ⟨hpending, hb⟩
  · exact .inl (hb ▸ ⟨rfl, rfl, rfl, rfl, rfl⟩)

/-- No boundary enters user mode. -/
theorem mode_user_of_boundary (h : (boundary s).psr.mode = .user) : s.psr.mode = .user := by
  obtain ⟨hmode, -⟩ | ⟨-, hb⟩ := boundary_mode_cases s
  · exact hmode ▸ h
  · simp [hb, interruptEntry] at h

/-- Out of user mode by the instruction or its fetch, then the boundary: the entry stands, or the interrupt pushes its
own frame above it. -/
theorem LeavesUserMode.boundary (h : LeavesUserMode s u) (hu : u.psr.mode = .supervisor) :
    AtVector (boundary u) ∧ (boundary u).savedUSP = s.reg regSP ∧
      ((boundary u).reg regSP = s.savedSSP - 2 ∨
        (interruptPending u = true ∧ (boundary u).reg regSP = s.savedSSP - 4)) := by
  obtain ⟨-, hpc, hmemory, husp, hsp⟩ | ⟨hpending, hb⟩ := boundary_mode_cases u
  · refine ⟨?_, husp.trans h.savedUSP, .inl (hsp.trans h.sp)⟩
    rw [AtVector, hpc, hmemory]
    exact h.atVector
  · obtain ⟨husp, hsp⟩ := interruptEntry_of_supervisor hu
    rw [hb]
    refine ⟨atVector_interruptEntry u, husp.trans h.savedUSP, .inr ⟨hpending, hsp.trans ?_⟩⟩
    rw [h.sp, sub_sub]
    rfl

/-- Out of user mode at the boundary: the interrupt's entry (R213). -/
theorem boundary_leavesUserMode (hu : u.psr.mode = .user) (ht : (boundary u).psr.mode = .supervisor) :
    interruptPending u = true ∧ LeavesUserMode u (boundary u) := by
  obtain ⟨hmode, -⟩ | ⟨hpending, hb⟩ := boundary_mode_cases u
  · simp [hmode, hu] at ht
  · obtain ⟨hvector, husp, hsp⟩ := leavesUserMode_interruptEntry hu
    exact ⟨hpending, hb ▸ ⟨hvector, husp, hsp⟩⟩

/-- A step that begins in user mode leaves SavedSSP to its boundary: RTI does not return from there. -/
theorem fetchAndExecute_savedSSP_of_user (hactive : s.active = true) (h : fetchAndExecute s = .next u)
    (hs : s.psr.mode = .user) : u.savedSSP = s.savedSSP := by
  obtain hsame | ⟨-, hsup, -⟩ := fetchAndExecute_savedSSP hactive h
  · exact hsame
  · simp [hs] at hsup

end

/-- Settles O43: of a step, by whether the instruction left it in user mode for the boundary. -/
theorem modeChangesOnlyThroughEntryAndRti : Obligations.ModeChangesOnlyThroughEntryAndRti := by
  unfold Obligations.ModeChangesOnlyThroughEntryAndRti
  refine ⟨fun i s t h => ⟨exec_entersUserMode h, fun hs ht => ?_⟩, fun s t h => ?_⟩
  · obtain ⟨⟨e, hlt, hpc⟩, husp, hsp⟩ := exec_leavesUserMode h hs ht
    exact ⟨e, hlt, hpc, husp, hsp⟩
  obtain ⟨-, rfl⟩ | ⟨hactive, u, hu, rfl⟩ := step_cases h
  · exact ⟨fun hs ht => by simp [hs] at ht, fun hs ht => by simp [hs] at ht⟩
  refine ⟨fun hs ht => fetchAndExecute_entersUserMode hactive hu hs (mode_user_of_boundary ht), fun hs ht => ?_⟩
  cases hmode : u.psr.mode with
  | supervisor =>
    obtain ⟨hvector, hrest⟩ := (fetchAndExecute_leavesUserMode hactive hu hs hmode).boundary hmode
    exact ⟨hvector, u, hu, fun _ => hrest, by simp [hmode]⟩
  | user =>
    obtain ⟨hpending, hvector, husp, hsp⟩ := boundary_leavesUserMode hmode ht
    rw [fetchAndExecute_savedSSP_of_user hactive hu hs] at hsp
    exact ⟨hvector, u, hu, by simp [hmode], fun _ => ⟨hpending, husp, hsp⟩⟩

end Sys2Proof.Machine
end

section
/-! What of the host's a step leaves alone (60_exceptions.md R229; 10_state.md R37, R38). -/

namespace Sys2Proof.Machine

/-- From `s` to `t` the parameters, the breakpoints and the keyboard's character are the same, READY of the keyboard is
at most cleared, and the output is at most longer (R37, R38, R229). -/
structure LeavesHostOwned (s t : State) : Prop where
  params : t.params = s.params
  breakpoints : t.breakpoints = s.breakpoints
  kbdData : t.kbdData = s.kbdData
  kbdReady : t.kbdReady = true → s.kbdReady = true
  output : s.output <+: t.output

/-- A write of DDR appends to the output; no other write changes it (R227). -/
theorem output_grows_memWrite (a v : Word) (s : State) : s.output <+: (memWrite a v s).output := by
  by_cases hddr : a = addrDDR
  · subst hddr
    exact ⟨_, rfl⟩
  · have hsame : (memWrite a v s).output = s.output := by
      unfold memWrite
      split_ifs <;> rfl
    rw [hsame]

namespace LeavesHostOwned
variable {s t u : State}

theorem trans (h : LeavesHostOwned s t) (h' : LeavesHostOwned t u) : LeavesHostOwned s u where
  params := h'.params.trans h.params
  breakpoints := h'.breakpoints.trans h.breakpoints
  kbdData := h'.kbdData.trans h.kbdData
  kbdReady := h.kbdReady ∘ h'.kbdReady
  output := h.output.trans h'.output

/-- The registers, PC, PSR, the saved stack pointers and the engine's own fields are not among them. -/
theorem of_core (ht : t = { s with
    regs := t.regs, pc := t.pc, psr := t.psr, savedSSP := t.savedSSP, savedUSP := t.savedUSP
    engine := t.engine, budget := t.budget, stopRequest := t.stopRequest }) : LeavesHostOwned s t := by
  rw [ht]
  exact ⟨rfl, rfl, rfl, id, ⟨[], List.append_nil _⟩⟩

theorem memRead (a : Word) (s : State) : LeavesHostOwned s (memRead a s).2 where
  params := memRead_params a s
  breakpoints := memRead_breakpoints a s
  kbdData := memRead_kbdData a s
  kbdReady := by
    rw [memRead_kbdReady]
    split <;> simp
  output := by rw [memRead_output]

theorem memWrite (a v : Word) (s : State) : LeavesHostOwned s (memWrite a v s) where
  params := memWrite_params a v s
  breakpoints := memWrite_breakpoints a v s
  kbdData := memWrite_kbdData a v s
  kbdReady := by simp
  output := output_grows_memWrite a v s

theorem push (v : Word) (s : State) : LeavesHostOwned s (push v s) :=
  (of_core (t := s.setReg regSP (s.reg regSP - 1)) rfl).trans (memWrite _ v _)

theorem entryBase (pl : BitVec 3) (s : State) : LeavesHostOwned s (entryBase pl s) := by
  refine of_core ?_
  unfold Machine.entryBase switchToSupervisor
  cases s.psr.mode <;> rfl

theorem enter (tableEntry : Word) (pl : BitVec 3) (s : State) : LeavesHostOwned s (enter tableEntry pl s) := by
  rw [enter_eq]
  exact ((((entryBase pl s).trans (push _ _)).trans (push _ _)).trans (memRead tableEntry _)).trans (of_core rfl)

theorem exceptionEntry (e : Exception) (s : State) : LeavesHostOwned s (exceptionEntry e s) := enter _ _ s

theorem returnFromEntry (s : State) : LeavesHostOwned s (returnFromEntry s) := by
  rw [returnFromEntry_rest]
  exact ((memRead _ s).trans (memRead _ _)).trans (of_core rfl)

theorem branch (n z p : Bool) (off : BitVec 9) (s : State) : LeavesHostOwned s (branch n z p off s) := by
  refine of_core ?_
  unfold Machine.branch
  split <;> rfl

theorem loadFrom {dr : Reg} {ea : Word} (h : loadFrom dr ea s = .next t) : LeavesHostOwned s t := by
  rw [loadFrom_eq] at h
  obtain rfl := Host.Outcome.next.inj h
  split
  · exact enter _ _ s
  · exact (memRead ea s).trans (of_core rfl)

theorem storeTo {sr : Reg} {ea : Word} (h : storeTo sr ea s = .next t) : LeavesHostOwned s t := by
  rw [storeTo_eq] at h
  obtain rfl := Host.Outcome.next.inj h
  split
  · exact enter _ _ s
  · exact memWrite ea _ s

theorem throughPointer {pa : Word} {access : Word → State → Result}
    (haccess : ∀ {ea : Word} {u : State}, access ea u = .next t → LeavesHostOwned u t)
    (h : throughPointer pa s access = .next t) : LeavesHostOwned s t := by
  rw [throughPointer_eq] at h
  split at h
  · obtain rfl := Host.Outcome.next.inj h
    exact enter _ _ s
  · exact (memRead pa s).trans (haccess h)

theorem execLea {dr : Reg} {off : BitVec 9} (h : execLea dr off s = .next t) : LeavesHostOwned s t := by
  obtain rfl := Host.Outcome.next.inj h
  refine of_core ?_
  split <;> rfl

theorem execRti (h : execRti s = .next t) : LeavesHostOwned s t := by
  unfold Machine.execRti at h
  split at h
  · obtain rfl := Host.Outcome.next.inj h
    exact enter _ _ s
  · obtain rfl := Host.Outcome.next.inj h
    exact returnFromEntry s

/-- Every instruction leaves it alone. -/
theorem exec {i : Instr} (h : exec i s = .next t) : LeavesHostOwned s t := by
  cases i with
  | addReg | addImm | andReg | andImm | not | jmp | ret | jsr | jsrr =>
    obtain rfl := Host.Outcome.next.inj h
    exact of_core rfl
  | br | brn | brz | brp | brnz | brnp | brzp | brnzp =>
    obtain rfl := Host.Outcome.next.inj h
    exact branch _ _ _ _ s
  | ld | ldr => exact loadFrom h
  | ldi => exact throughPointer loadFrom h
  | lea => exact execLea h
  | st | str => exact storeTo h
  | sti => exact throughPointer storeTo h
  | rti => exact execRti h
  | trap | getc | out | puts | inp | putsp | halt | illegal =>
    obtain rfl := Host.Outcome.next.inj h
    exact enter _ _ s

theorem fetchAndExecute (hactive : s.active = true) (h : fetchAndExecute s = .next u) : LeavesHostOwned s u := by
  obtain ⟨-, rfl⟩ | ⟨i, -, hexec⟩ := fetchAndExecute_cases hactive h
  · have hpc : LeavesHostOwned s { s with pc := s.pc + 1 } := of_core rfl
    exact hpc.trans (exceptionEntry .accessViolation _)
  · exact ((memRead s.pc s).trans (of_core rfl)).trans (exec hexec)

theorem boundary (s : State) : LeavesHostOwned s (boundary s) := by
  obtain ⟨-, hb⟩ | ⟨-, -, hb⟩ | ⟨-, -, hb⟩ := boundary_cases s <;> rw [hb]
  · exact of_core rfl
  · exact (enter _ _ s).trans (of_core rfl)
  · exact of_core rfl

end LeavesHostOwned

/-- Settles O55: through the fetch and the instruction, then the boundary. -/
theorem stepsLeaveHostOwnedStateAlone : Obligations.StepsLeaveHostOwnedStateAlone := by
  unfold Obligations.StepsLeaveHostOwnedStateAlone
  intro s t h
  obtain ⟨-, rfl⟩ | ⟨hactive, u, hu, rfl⟩ := step_cases h
  · exact ⟨rfl, rfl, rfl, id, ⟨[], List.append_nil _⟩⟩
  · obtain ⟨hparams, hbreakpoints, hdata, hready, houtput⟩ :=
      (LeavesHostOwned.fetchAndExecute hactive hu).trans (.boundary u)
    exact ⟨hparams, hbreakpoints, hdata, hready, houtput⟩

end Sys2Proof.Machine
end

section
/-! The keyboard interrupt at the boundary, and the host's control actions (41_execution_cycle.md R127, R137, R138,
R141, R143, R146; 60_exceptions.md R211, R212, R214, R219). -/

namespace Sys2Proof.Machine

/-! The interrupt. -/

/-- When the interrupt pends (R211, R212). -/
theorem interruptPending_iff (s : State) :
    interruptPending s = true ↔
      s.kbdReady = true ∧ s.kbdIE = true ∧ s.psr.pl.toNat < s.params.kbdIntPriority.toNat := by
  simp [interruptPending, and_assoc, BitVec.lt_def]

/-- Once entered it does not pend: PL is its priority (R212, R214). -/
theorem not_interruptPending_interruptEntry (s : State) : interruptPending (stopCheck (interruptEntry s)) = false := by
  simp [interruptPending, interruptEntry]

theorem boundary_of_pending {s : State} (hclock : s.mcr.getLsbD 15 = true) (h : interruptPending s = true) :
    boundary s = stopCheck (interruptEntry s) := by
  rw [boundary, if_pos hclock, if_pos h]

theorem boundary_of_not_pending {s : State} (hclock : s.mcr.getLsbD 15 = true) (h : ¬interruptPending s = true) :
    boundary s = stopCheck s := by
  rw [boundary, if_pos hclock, if_neg h]

/-- Settles O50: with the clock on, the boundary asks only whether the interrupt pends. -/
theorem interruptIsTakenExactlyWhenPending : Obligations.InterruptIsTakenExactlyWhenPending := by
  unfold Obligations.InterruptIsTakenExactlyWhenPending
  intro s hclock
  rw [← interruptPending_iff]
  refine ⟨fun h => ?_, boundary_of_not_pending hclock⟩
  rw [boundary_of_pending hclock h]
  exact ⟨rfl, not_interruptPending_interruptEntry s⟩

/-! The host's actions. -/

/-- An inspection shows what a read gives: DSR's READY is fixed under always, and no other read draws (R146, R224). -/
theorem State.inspect_eq_memRead {s : State} {a : Word} (h : s.params.displayReady = .always ∨ a ≠ addrDSR) :
    s.inspect a = (memRead a s).1 := by
  obtain halways | hdsr := h
  · exact (memRead_value halways a).symm
  by_cases hkbdr : a = addrKBDR
  · subst hkbdr
    rfl
  · rw [memRead_unchanged hkbdr hdsr, State.inspect]

/-- Settles O59: each action by its definition at the engine state it acts in. -/
theorem hostControlActions : Obligations.HostControlActions := by
  unfold Obligations.HostControlActions
  refine fun s c budget n => ⟨rfl, rfl, fun hstopped => ?_, fun hstopped hn => ?_, fun hactive => ?_,
    fun a => ⟨rfl, fun x => mem_insertAddress⟩, fun a => State.inspect_eq_memRead⟩
  · rw [State.run, hstopped]
  · rw [State.singleStep, hstopped]
    exact if_neg (Nat.one_le_iff_ne_zero.mp hn)
  · exact if_pos (State.active_iff.mpr hactive)

end Sys2Proof.Machine
end

section
/-! Reset and bring-up (70_reset_and_hazards.md R246, R248 to R251). -/

namespace Sys2Proof.Machine

/-! Reset. -/

section
variable (d : ResetDraws) (s : State)

@[simp] theorem State.kbsr_applyReset : (s.applyReset d).kbsr = 0x0000 := by simp [State.kbsr, State.applyReset]

@[simp] theorem State.kbdr_applyReset : (s.applyReset d).kbdr = 0x0000 := by simp [State.kbdr, State.applyReset, zext]

/-- After a reset DSR shows READY under both policies (R34, R246). -/
@[simp] theorem State.dsr_applyReset : (s.applyReset d).dsr = 0x8000 := by
  have hready : dsrWord true = 0x8000 := by decide
  unfold State.dsr
  split <;> exact hready

end

/-- Settles O57: PSR by its layout, the device registers by their lemmas, and each other value as the reset writes it. -/
theorem resetAppliesTheGivenValues : Obligations.ResetAppliesTheGivenValues := by
  unfold Obligations.ResetAppliesTheGivenValues
  intro d e s
  have hpsr : (s.applyReset d).psr.pack = 0x0002 := Psr.pack_unpack resetPSR
  exact ⟨rfl, rfl, rfl, rfl, hpsr, rfl, s.kbsr_applyReset d, s.kbdr_applyReset d, s.dsr_applyReset d, rfl, rfl, rfl, rfl,
    rfl, rfl⟩

/-! Bring-up. -/

/-- Loading blocks one file after another is loading them as one file, refusals included (R56, R250). -/
theorem State.load_append (xs ys : List Block) (s : State) : s.load (xs ++ ys) = s.load xs >>= State.load ys := by
  unfold State.load firstPastEnd
  rw [List.find?_append]
  cases hxs : xs.find? fun b => !b.fits with
  | some b => rfl
  | none => simp [writeBlocks, bind, Except.bind]

/-- Bring-up is one load into the power-on state: the image's blocks, then the user's (R250). -/
theorem bringUp_eq_load (p : Params) (d : ResetDraws) (img : OsImage) (user : List Block) :
    bringUp p d img user = (powerOn p d).load ([img.tables, img.code] ++ user) := by
  rw [State.load_append, ← List.singleton_append, State.load_append, bringUp, bind_assoc]

/-- What the image's blocks leave at each address: block 2 over block 1 over zeros (R249, R250). -/
theorem OsImage.read_writeBlocks {img : OsImage} (htables : img.tables.fits = true) (hcode : img.code.fits = true)
    (a : Word) :
    (writeBlocks [] [img.tables, img.code]).read a =
      if h : 0x0200 ≤ a.toNat ∧ a.toNat < 0x0200 + img.block2.length then img.block2[a.toNat - 0x0200]
      else if h : a.toNat < img.block1.length then img.block1[a.toNat]
      else 0x0000 := by
  have h1 : 0 + img.block1.length ≤ 65536 := of_decide_eq_true htables
  have h2 : 0x0200 + img.block2.length ≤ 65536 := of_decide_eq_true hcode
  change Memory.readAt (Memory.writeBlock (Memory.writeBlock [] 0 img.block1) 0x0200 img.block2) a.toNat = _
  rw [Memory.readAt_writeBlock (Memory.wf_writeBlock rfl h1) h2, Memory.readAt_writeBlock rfl h1]
  simp [Memory.readAt, Memory.blank]

/-- Settles O60: the state is a reset of one that holds the image's blocks, and the user's blocks are loaded into it. -/
theorem bringUpLoadsTheImageThenTheUser : Obligations.BringUpLoadsTheImageThenTheUser := by
  unfold Obligations.BringUpLoadsTheImageThenTheUser
  intro p d img s hs
  rw [bringUp_eq_load, List.append_nil] at hs
  have huser (user : List Block) : bringUp p d img user = s.load user := by
    rw [bringUp_eq_load, State.load_append, hs]
    rfl
  obtain ⟨hfits, rfl⟩ := State.load_ok hs
  obtain ⟨hregs, hssp, husp, hpc, hpsr, hmcr, hkbsr, hkbdr, hdsr, hddr, hengine, -⟩ := resetAppliesTheGivenValues d d
    { State.reset with params := p, memory := writeBlocks [] [img.tables, img.code] }
  exact ⟨rfl, hpc, hpsr, hengine, hmcr, hregs, hssp, husp, hkbsr, hkbdr, hdsr, hddr, rfl, rfl, huser,
    OsImage.read_writeBlocks (hfits _ (by simp)) (hfits _ (by simp))⟩

end Sys2Proof.Machine
end
